-- ==== Sys2Proof/Word.lean ====
section
/-! DEFINITION. The widths of the PCU's values (`00_scope.md` R4, R7, R11): all are unsigned bit vectors. -/

namespace Sys2Proof

/-- One byte of the stream (R4). -/
abbrev Byte := BitVec 8

/-- The width of `TYPE`, `CRC`, `EXPECT`, `LEN`, of the immediate field and of the response data (R4, R12, R40, R47). -/
abbrev Word := BitVec 32

/-- One command word `cmd[39:0]` (`30_encoding.md` R40). -/
abbrev CmdWord := BitVec 40

/-- The byte index `k` of format K, always 0 to 3 (`30_encoding.md` R42). -/
abbrev ByteIndex := BitVec 2

end Sys2Proof
end

