-- ==== Sys2Proof/Config.lean ====
section
/-! DEFINITION. What an implementation of the PCU may choose: nothing ("There is no open parameter: a model of the PCU
takes no configuration argument", `00_scope.md` R7). The two widths of the hardware form that R7 lists stand here; the
CRC parameters of R5 are in `Sys2Proof/Machine/Checksum.lean`, beside the functions that use them. No value of this
hardware is free: every reset value, result, flag and response is stated (R21, R44, R45). -/

namespace Sys2Proof.Config

/-- "command word width 40 bits" (R7, R40). -/
abbrev cmdWidth : Nat := 40

/-- The code of "response width 2 + 32 bits" (R7, R47). -/
abbrev rspCodeWidth : Nat := 2

end Sys2Proof.Config
end

