-- ==== Sys2Proof/Syntax.lean ====
section
/-! DEFINITION. The commands of "PCU command set 1.0" (one constructor per row of the opcode table), the four command
formats, and the assembler's lines with the four pseudo-instructions (`30_encoding.md` R40 to R43, R48, R49). -/

namespace Sys2Proof

/-- The 18 commands, one constructor per row of the opcode table (R43). An operand has the exact width the format gives
it (R41, R42), so every term is a command that can be encoded. -/
inductive Instr where
  /-- SYS.RST (`42_system.md` R84), format N. -/
  | sysRst
  /-- SYS.STAT (`42_system.md` R85), format N. -/
  | sysStat
  /-- TYP.LD `w` (`40_chunk_type.md` R58), format W. -/
  | typLd (w : Word)
  /-- TYP.LDS `w` (`40_chunk_type.md` R59), format W. -/
  | typLds (w : Word)
  /-- TYP.PUSH `b` (`40_chunk_type.md` R60), format B. -/
  | typPush (b : Byte)
  /-- TYP.RD (`40_chunk_type.md` R61), format N. -/
  | typRd
  /-- TYP.FLG (`40_chunk_type.md` R62), format N. -/
  | typFlg
  /-- TYP.EQ `w` (`40_chunk_type.md` R63), format W. -/
  | typEq (w : Word)
  /-- CRC.INIT (`41_crc.md` R71), format N. -/
  | crcInit
  /-- CRC.BYTE `b` (`41_crc.md` R72), format B. -/
  | crcByte (b : Byte)
  /-- CRC.TYPE (`41_crc.md` R73), format N. -/
  | crcType
  /-- CRC.RD (`41_crc.md` R74), format N. -/
  | crcRd
  /-- CRC.RDB `k` (`41_crc.md` R75), format K. -/
  | crcRdb (k : ByteIndex)
  /-- LEN.RD (`41_crc.md` R76), format N. -/
  | lenRd
  /-- EXP.LD `w` (`41_crc.md` R77), format W. -/
  | expLd (w : Word)
  /-- EXP.PUSH `b` (`41_crc.md` R78), format B. -/
  | expPush (b : Byte)
  /-- EXP.RD (`41_crc.md` R79), format N. -/
  | expRd
  /-- CRC.CHK (`41_crc.md` R80), format N. -/
  | crcChk
  deriving DecidableEq, Repr

/-- The four formats (R41): they differ only in how much of `imm` carries an operand. -/
inductive Format where
  | n
  | b
  | k
  | w
  deriving DecidableEq, Repr

/-- The 18 mnemonics of R43. -/
inductive Mnemonic where
  | sysRst | sysStat
  | typLd | typLds | typPush | typRd | typFlg | typEq
  | crcInit | crcByte | crcType | crcRd | crcRdb | lenRd
  | expLd | expPush | expRd | crcChk
  deriving DecidableEq, Repr

/-- One row of the opcode table (R43); a command word `cmd` matches it iff `(cmd and mask) = match`. -/
structure OpcodeRow where
  mnemonic : Mnemonic
  op       : Byte
  format   : Format
  pattern  : CmdWord
  mask     : CmdWord
  deriving DecidableEq, Repr

/-- Why a command word matches no row: the four classes (a) to (d) of R44. -/
inductive DecodeReject where
  /-- (a) `op` is not one of the 18 values of R43. -/
  | unassignedOpcode
  /-- (b) a format N word with `imm != 0`. -/
  | reservedBitsN
  /-- (c) a format B word with `imm[31:8] != 0`. -/
  | reservedBitsB
  /-- (d) a format K word with `imm[31:2] != 0`. -/
  | reservedBitsK
  deriving DecidableEq, Repr

/-- An operand as the assembler reads it (R48): a number, a string literal, or a character literal. Numbers are
unbounded here; whether one fits its format is the assembler's check. -/
inductive AsmOperand where
  | num (n : Nat)
  | str (cs : List Char)
  | chr (c : Char)
  deriving DecidableEq, Repr

/-- One assembly statement: a command line (R48) or a pseudo-instruction (R49). -/
inductive AsmStmt where
  /-- A mnemonic of R43 with the operand its format asks for. -/
  | command (m : Mnemonic) (operand : Option AsmOperand)
  /-- `CRC.BYTES b0, ..., b(n-1)`, `n >= 1`. -/
  | crcBytes (bs : List AsmOperand)
  /-- `CRC.STR "text"`, `n >= 0` characters. -/
  | crcStr (cs : List Char)
  /-- `TYP.BYTES t0, t1, t2, t3`. -/
  | typBytes (t0 t1 t2 t3 : AsmOperand)
  /-- `EXP.BYTES e0, e1, e2, e3`. -/
  | expBytes (e0 e1 e2 e3 : AsmOperand)
  deriving DecidableEq, Repr

end Sys2Proof
end

