-- ==== Sys2Proof/WellFormed.lean ====
section
/-! DEFINITION. What is well formed. A command (`Instr`) carries its operand at exactly the width of its field, so its
check is true by its type; the checks that can fail are the assembler's (`30_encoding.md` R48, R49): "An operand out of
range for its format (a byte above 255, an index above 3, a word above 2^32 - 1) is an assembly error, not a command." -/

namespace Sys2Proof

/-- The operand of a command is in the range of its format (R42): `b` is 8 bits, `k` 0 to 3, `w` 32 bits. -/
def Instr.wellFormed : Instr → Bool
  | .sysRst => true
  | .sysStat => true
  | .typLd w => decide (w.toNat < 2 ^ 32)
  | .typLds w => decide (w.toNat < 2 ^ 32)
  | .typPush b => decide (b.toNat < 2 ^ 8)
  | .typRd => true
  | .typFlg => true
  | .typEq w => decide (w.toNat < 2 ^ 32)
  | .crcInit => true
  | .crcByte b => decide (b.toNat < 2 ^ 8)
  | .crcType => true
  | .crcRd => true
  | .crcRdb k => decide (k.toNat < 4)
  | .lenRd => true
  | .expLd w => decide (w.toNat < 2 ^ 32)
  | .expPush b => decide (b.toNat < 2 ^ 8)
  | .expRd => true
  | .crcChk => true

/-- A printable ASCII character, codes 0x20 to 0x7E (R49). -/
def printable (c : Char) : Bool := decide (0x20 ≤ c.toNat) && decide (c.toNat ≤ 0x7E)

/-- An operand of format B: a number up to 255 or one printable character in single quotes (R48). -/
def AsmOperand.isByte : AsmOperand → Bool
  | .num n => decide (n ≤ 255)
  | .chr c => printable c
  | .str _ => false

/-- An operand of format K: a number up to 3 (R48). -/
def AsmOperand.isIndex : AsmOperand → Bool
  | .num n => decide (n ≤ 3)
  | .chr _ => false
  | .str _ => false

/-- An operand of format W: a number up to 2^32 - 1 or a literal of exactly 4 printable ASCII characters (R48). -/
def AsmOperand.isWord : AsmOperand → Bool
  | .num n => decide (n < 2 ^ 32)
  | .str cs => decide (cs.length = 4) && cs.all printable
  | .chr _ => false

/-- The format of each mnemonic (R43). -/
def Mnemonic.format : Mnemonic → Format
  | .sysRst => .n
  | .sysStat => .n
  | .typLd => .w
  | .typLds => .w
  | .typPush => .b
  | .typRd => .n
  | .typFlg => .n
  | .typEq => .w
  | .crcInit => .n
  | .crcByte => .b
  | .crcType => .n
  | .crcRd => .n
  | .crcRdb => .k
  | .lenRd => .n
  | .expLd => .w
  | .expPush => .b
  | .expRd => .n
  | .crcChk => .n

/-- "a mnemonic of rule R43 in upper case, then for formats B, K and W one operand" (R48), each operand in the range of
its format; the pseudo-instructions of R49, whose byte operands are operands of format B. -/
def AsmStmt.wellFormed : AsmStmt → Bool
  | .command m operand =>
    match m.format, operand with
    | .n, none => true
    | .b, some o => o.isByte
    | .k, some o => o.isIndex
    | .w, some o => o.isWord
    | .n, some _ => false
    | .b, none => false
    | .k, none => false
    | .w, none => false
  | .crcBytes bs => !bs.isEmpty && bs.all AsmOperand.isByte
  | .crcStr cs => cs.all (fun c => printable c && !(c == '"'))
  | .typBytes t0 t1 t2 t3 => t0.isByte && t1.isByte && t2.isByte && t3.isByte
  | .expBytes e0 e1 e2 e3 => e0.isByte && e1.isByte && e2.isByte && e3.isByte

end Sys2Proof
end

