-- ==== Sys2Proof/Decode.lean ====
section
/-! DEFINITION. The decoder, total on the 2^40 command words and rejecting by name (`30_encoding.md` R40 to R45), the
encoder written from the same tables, and the opcode table of R43 as data. -/

namespace Sys2Proof

/-- `op = cmd[39:32]` (R40). -/
def cmdOp (cmd : CmdWord) : Byte := cmd.extractLsb' 32 8

/-- `imm = cmd[31:0]` (R40). -/
def cmdImm (cmd : CmdWord) : Word := cmd.extractLsb' 0 32

/-- The command word with opcode `op` and immediate field `imm` (R40). -/
def mkCmd (op : Byte) (imm : Word) : CmdWord := op ++ imm

/-- Format N: no operand, `imm` must be zero (R41). -/
def formatN (i : Instr) (imm : Word) : Except DecodeReject Instr :=
  if imm = 0#32 then .ok i else .error .reservedBitsN

/-- Format B: `b = imm[7:0]`, `imm[31:8]` must be zero (R41, R42). -/
def formatB (f : Byte → Instr) (imm : Word) : Except DecodeReject Instr :=
  if imm.extractLsb' 8 24 = 0#24 then .ok (f (imm.extractLsb' 0 8)) else .error .reservedBitsB

/-- Format K: `k = imm[1:0]`, `imm[31:2]` must be zero (R41, R42). -/
def formatK (f : ByteIndex → Instr) (imm : Word) : Except DecodeReject Instr :=
  if imm.extractLsb' 2 30 = 0#30 then .ok (f (imm.extractLsb' 0 2)) else .error .reservedBitsK

/-- Format W: `w = imm[31:0]`, never illegal on account of its operand (R41, R44). -/
def formatW (f : Word → Instr) (imm : Word) : Except DecodeReject Instr :=
  .ok (f imm)

/-- The decoder (R43, R44): all 8 bits of `op` are compared, the format is fixed by the opcode, and a word that matches
no row is rejected by the name of its class. -/
def decode (cmd : CmdWord) : Except DecodeReject Instr :=
  match (cmdOp cmd).toNat with
  | 0x01 => formatN .sysRst (cmdImm cmd)
  | 0x02 => formatN .sysStat (cmdImm cmd)
  | 0x10 => formatW .typLd (cmdImm cmd)
  | 0x11 => formatW .typLds (cmdImm cmd)
  | 0x12 => formatB .typPush (cmdImm cmd)
  | 0x13 => formatN .typRd (cmdImm cmd)
  | 0x14 => formatN .typFlg (cmdImm cmd)
  | 0x15 => formatW .typEq (cmdImm cmd)
  | 0x20 => formatN .crcInit (cmdImm cmd)
  | 0x21 => formatB .crcByte (cmdImm cmd)
  | 0x22 => formatN .crcType (cmdImm cmd)
  | 0x23 => formatN .crcRd (cmdImm cmd)
  | 0x24 => formatK .crcRdb (cmdImm cmd)
  | 0x25 => formatN .lenRd (cmdImm cmd)
  | 0x28 => formatW .expLd (cmdImm cmd)
  | 0x29 => formatB .expPush (cmdImm cmd)
  | 0x2A => formatN .expRd (cmdImm cmd)
  | 0x2B => formatN .crcChk (cmdImm cmd)
  | _ => .error .unassignedOpcode

/-- The word of format N (R41). -/
def encodeN (op : Byte) : CmdWord := mkCmd op 0#32

/-- The word of format B (R41): the reserved bits are zero. -/
def encodeB (op : Byte) (b : Byte) : CmdWord := mkCmd op (0#24 ++ b)

/-- The word of format K (R41): the reserved bits are zero. -/
def encodeK (op : Byte) (k : ByteIndex) : CmdWord := mkCmd op (0#30 ++ k)

/-- The word of format W (R41). -/
def encodeW (op : Byte) (w : Word) : CmdWord := mkCmd op w

/-- The encoder, from the table of R43. -/
def encode : Instr → CmdWord
  | .sysRst => encodeN 0x01#8
  | .sysStat => encodeN 0x02#8
  | .typLd w => encodeW 0x10#8 w
  | .typLds w => encodeW 0x11#8 w
  | .typPush b => encodeB 0x12#8 b
  | .typRd => encodeN 0x13#8
  | .typFlg => encodeN 0x14#8
  | .typEq w => encodeW 0x15#8 w
  | .crcInit => encodeN 0x20#8
  | .crcByte b => encodeB 0x21#8 b
  | .crcType => encodeN 0x22#8
  | .crcRd => encodeN 0x23#8
  | .crcRdb k => encodeK 0x24#8 k
  | .lenRd => encodeN 0x25#8
  | .expLd w => encodeW 0x28#8 w
  | .expPush b => encodeB 0x29#8 b
  | .expRd => encodeN 0x2A#8
  | .crcChk => encodeN 0x2B#8

/-- The mnemonic a command has in the table (R43). -/
def Instr.mnemonic : Instr → Mnemonic
  | .sysRst => .sysRst
  | .sysStat => .sysStat
  | .typLd _ => .typLd
  | .typLds _ => .typLds
  | .typPush _ => .typPush
  | .typRd => .typRd
  | .typFlg => .typFlg
  | .typEq _ => .typEq
  | .crcInit => .crcInit
  | .crcByte _ => .crcByte
  | .crcType => .crcType
  | .crcRd => .crcRd
  | .crcRdb _ => .crcRdb
  | .lenRd => .lenRd
  | .expLd _ => .expLd
  | .expPush _ => .expPush
  | .expRd => .expRd
  | .crcChk => .crcChk

/-- The rows of R43 for the system and chunk-type groups, `match` and `mask` as the table prints them. -/
def opcodeRowsSystemType : List OpcodeRow :=
  [ ⟨.sysRst, 0x01#8, .n, 0x0100000000#40, 0xFFFFFFFFFF#40⟩,
    ⟨.sysStat, 0x02#8, .n, 0x0200000000#40, 0xFFFFFFFFFF#40⟩,
    ⟨.typLd, 0x10#8, .w, 0x1000000000#40, 0xFF00000000#40⟩,
    ⟨.typLds, 0x11#8, .w, 0x1100000000#40, 0xFF00000000#40⟩,
    ⟨.typPush, 0x12#8, .b, 0x1200000000#40, 0xFFFFFFFF00#40⟩,
    ⟨.typRd, 0x13#8, .n, 0x1300000000#40, 0xFFFFFFFFFF#40⟩,
    ⟨.typFlg, 0x14#8, .n, 0x1400000000#40, 0xFFFFFFFFFF#40⟩,
    ⟨.typEq, 0x15#8, .w, 0x1500000000#40, 0xFF00000000#40⟩ ]

/-- The rows of R43 for the CRC, length and stored-CRC group. -/
def opcodeRowsCrc : List OpcodeRow :=
  [ ⟨.crcInit, 0x20#8, .n, 0x2000000000#40, 0xFFFFFFFFFF#40⟩,
    ⟨.crcByte, 0x21#8, .b, 0x2100000000#40, 0xFFFFFFFF00#40⟩,
    ⟨.crcType, 0x22#8, .n, 0x2200000000#40, 0xFFFFFFFFFF#40⟩,
    ⟨.crcRd, 0x23#8, .n, 0x2300000000#40, 0xFFFFFFFFFF#40⟩,
    ⟨.crcRdb, 0x24#8, .k, 0x2400000000#40, 0xFFFFFFFFFC#40⟩,
    ⟨.lenRd, 0x25#8, .n, 0x2500000000#40, 0xFFFFFFFFFF#40⟩,
    ⟨.expLd, 0x28#8, .w, 0x2800000000#40, 0xFF00000000#40⟩,
    ⟨.expPush, 0x29#8, .b, 0x2900000000#40, 0xFFFFFFFF00#40⟩,
    ⟨.expRd, 0x2A#8, .n, 0x2A00000000#40, 0xFFFFFFFFFF#40⟩,
    ⟨.crcChk, 0x2B#8, .n, 0x2B00000000#40, 0xFFFFFFFFFF#40⟩ ]

/-- The complete command set: the 18 rows of R43. -/
def opcodeTable : List OpcodeRow := opcodeRowsSystemType ++ opcodeRowsCrc

/-- `cmd` matches a row iff `(cmd and mask) = match` (R43). -/
def OpcodeRow.matches (row : OpcodeRow) (cmd : CmdWord) : Bool := cmd &&& row.mask == row.pattern

/-- The command word whose low `nbits` bits are those of `w`, numbered as the opcode table numbers them (bit 0 the least
significant bit of the one 40-bit word), every higher bit zero. -/
def tableWord (nbits w : Nat) : CmdWord := BitVec.ofNat Config.cmdWidth (w % 2 ^ nbits)

/-- The instruction the decoder reads from a table word; none where it rejects. -/
def decodeTableWord (nbits w : Nat) : Option Instr :=
  match decode (tableWord nbits w) with
  | .ok i => some i
  | .error _ => none

end Sys2Proof
end

