-- ==== Sys2Proof/Machine/Operands.lean ====
section
/-! DEFINITION. Byte numbering and operand assembly (`00_scope.md` R8, R9, R11; `30_encoding.md` R42): wire order, first
stream byte in bits 31:24. -/

namespace Sys2Proof.Machine

/-- `byte_k(W) = W[31 - 8k : 24 - 8k]` (R9): byte 0 is the most significant and the first on the wire. -/
def byteOf (w : Word) (k : ByteIndex) : Byte := w.extractLsb' (24 - 8 * k.toNat) 8

/-- `word(b0, b1, b2, b3) = b0 * 2^24 + b1 * 2^16 + b2 * 2^8 + b3` (R9), as a concatenation. -/
def wordOf (b0 b1 b2 b3 : Byte) : Word := b0 ++ b1 ++ b2 ++ b3

/-- The four bytes of a word in wire order (R9, R28). -/
def wireBytes (w : Word) : List Byte := [byteOf w 0#2, byteOf w 1#2, byteOf w 2#2, byteOf w 3#2]

/-- `zext_32(b)` (R11). -/
def zextByte (b : Byte) : Word := b.setWidth 32

/-- `b2i(p)` as a 32-bit word (R11). -/
def boolWord (p : Bool) : Word := if p then 1#32 else 0#32

/-- `(W[23:0], b)`, `W` in the high bits: the next byte of a stream shifted in at the bottom (R60, R78). -/
def shiftInByte (w : Word) (b : Byte) : Word := w.extractLsb' 0 24 ++ b

end Sys2Proof.Machine
end

