-- ==== Sys2Proof/Machine/Checksum.lean ====
section
/-! DEFINITION. The CRC-32 of the PCU: the parameters of `00_scope.md` R5 and the functions of `41_crc.md` R66 to R70. -/

namespace Sys2Proof.Machine

/-- `CRC_POLY`, the generator polynomial written MSB-first without the x^32 term (R5). -/
def crcPoly : Word := 0x04C11DB7#32

/-- `CRC_POLY_R`, the same polynomial with its 32 bits reversed; the constant the rules use (R5). -/
def crcPolyR : Word := 0xEDB88320#32

/-- `CRC_INIT`, the accumulator before the first byte (R5). -/
def crcInitValue : Word := 0xFFFFFFFF#32

/-- `CRC_XOROUT`, the final inversion (R5). -/
def crcXorOut : Word := 0xFFFFFFFF#32

/-- One bit step (R66). -/
def crcBit (c : Word) : Word :=
  if c.getLsbD 0 then (c >>> 1) ^^^ crcPolyR else c >>> 1

/-- One byte step (R67): the byte into bits 7:0, then exactly 8 bit steps. -/
def crcByte (c : Word) (b : Byte) : Word :=
  crcBit (crcBit (crcBit (crcBit (crcBit (crcBit (crcBit (crcBit (c ^^^ zextByte b))))))))

/-- A sequence of bytes, in wire order (R68). -/
def crcBytes : Word → List Byte → Word
  | c, [] => c
  | c, s0 :: rest => crcBytes (crcByte c s0) rest

/-- The finalised CRC of an accumulator: `CRC xor 0xFFFFFFFF` (R16, R74). -/
def finalCrc (c : Word) : Word := c ^^^ crcXorOut

/-- The CRC-32 of a byte sequence (R69). -/
def crc32 (s : List Byte) : Word := finalCrc (crcBytes crcInitValue s)

/-- `T[i]`, the entry of the byte table (R70): `crc_bit` applied 8 times to `zext_32(i)`. -/
def crcTable (i : Byte) : Word := crcByte 0x00000000#32 i

/-- The table form of the byte step (R70): `T[(c xor zext_32(b))[7:0]] xor (c >> 8)`. -/
def crcByteByTable (c : Word) (b : Byte) : Word :=
  crcTable ((c ^^^ zextByte b).extractLsb' 0 8) ^^^ (c >>> 8)

end Sys2Proof.Machine
end

