-- ==== Sys2Proof/Machine/State.lean ====
section
/-! DEFINITION. The state of the PCU as plain data: the five registers of `10_state.md` R12 (`Regs`), and the command and
response ports of `30_encoding.md` R46, R47, which the one-argument step of this interface makes part of the state. -/

namespace Sys2Proof.Machine

/-- `STATUS`: the three sticky fault flags (R19). Bits 31:3 of the word SYS.STAT reads are no state. -/
structure Status where
  /-- Bit 0: a FormatError has been raised since reset. -/
  efmt : Bool
  /-- Bit 1: a CrcMismatchError has been raised since reset. -/
  ecrc : Bool
  /-- Bit 2: an IllegalCommand has been raised since reset. -/
  eill : Bool
  deriving DecidableEq, Repr

/-- "The complete state of the PCU is five registers and nothing else" (R12). -/
structure Regs where
  /-- `TYPE`, byte 0 of the chunk type in bits 31:24 (R15). -/
  type   : Word
  /-- `CRC`, the raw accumulator, before the final inversion (R16). -/
  crc    : Word
  /-- `EXPECT`, the stored CRC of a chunk record (R17). -/
  expect : Word
  /-- `LEN`, the data bytes fed since the last CRC.INIT or reset, modulo 2^32 (R18). -/
  len    : Word
  /-- `STATUS` (R19). -/
  status : Status
  deriving DecidableEq, Repr

/-- The response codes (R47). -/
inductive RspCode where
  /-- 0: the command executed without fault. -/
  | ok
  /-- 1: TYP.LDS operand has a non-letter byte. -/
  | formatError
  /-- 2: CRC.CHK found finalised CRC != `EXPECT`. -/
  | crcMismatchError
  /-- 3: the word matches no row of R43. -/
  | illegalCommand
  deriving DecidableEq, Repr

/-- The response is the pair `(rsp_code[1:0], rsp_data[31:0])` (R47). -/
structure Response where
  code : RspCode
  data : Word
  deriving DecidableEq, Repr

/-- What the host does at the ports, one event at a time (R46, R106). -/
inductive PortEvent where
  /-- The host presents the command word `cmd` and holds it, `cmd` stable, until the PCU accepts it. -/
  | command (cmd : CmdWord)
  /-- The host takes the outstanding response (`rsp_ready` = 1). -/
  | take
  /-- A rising edge of `clk` with `rst` = 1. -/
  | reset
  deriving DecidableEq, Repr

/-- The machine's state. `regs` and `rsp` are the spec's; `input` and `taken` are the model's own fields for what the
host will do and what it has received (log entries 1 and 3). -/
structure State where
  /-- The five registers (R12). -/
  regs  : Regs
  /-- What the host does next at the ports, oldest first. -/
  input : List PortEvent
  /-- The response channel: the response that was given and not yet taken; `none` when `rsp_valid` = 0 (R46). -/
  rsp   : Option Response
  /-- The responses the host has taken, oldest first (R108). -/
  taken : List Response
  deriving DecidableEq, Repr

/-- No step of the PCU stops with a fault: "The PCU has no stuck state and no hang" (`70_reset_and_hazards.md` R111). The
three faults the spec names (R86) are responses, and the machine goes on (R95). So this closed type has no constructor:
nothing raises one, which is neither safe nor unsafe (log entry 9). -/
inductive Fault where
  deriving DecidableEq, Repr

/-- The reasons the model may refuse an instruction. -/
inductive Refusal where
  /-- Raised by an arm of `exec` whose instruction has no meaning yet; safe. No arm of this model raises it. -/
  | notModelled (mnemonic : String)
  deriving DecidableEq, Repr

/-- What a meaning answers. -/
abbrev Result := Host.Outcome State Fault Refusal

/-- All three sticky flags 0 (R21). -/
def Status.clear : Status := { efmt := false, ecrc := false, eill := false }

/-- The reset values of the five registers (R21). -/
def Regs.reset : Regs :=
  { type := 0x00000000#32, crc := 0xFFFFFFFF#32, expect := 0x00000000#32, len := 0x00000000#32,
    status := Status.clear }

/-- The machine right after reset: the registers of R21, no response outstanding (R106: `rsp_valid` is driven 0), and no
command presented or response taken yet (log entries 1 and 3). -/
def State.reset : State := { regs := Regs.reset, input := [], rsp := none, taken := [] }

end Sys2Proof.Machine
end

