-- ==== Sys2Proof/Machine/Flags.lean ====
section
/-! DEFINITION. The decoded flags of a chunk type (`40_chunk_type.md` R50 to R57), none of them state (`10_state.md` R20),
and the word of the sticky flags (R19). -/

namespace Sys2Proof.Machine

/-- `CRIT(t)`: bit 5 of byte 0 is 0 (R50). -/
def crit (t : Word) : Bool := !(byteOf t 0#2).getLsbD 5

/-- `PUB(t)`: bit 5 of byte 1 is 0 (R51). -/
def pub (t : Word) : Bool := !(byteOf t 1#2).getLsbD 5

/-- `RSVOK(t)`: bit 5 of byte 2 is 0 (R52). -/
def rsvok (t : Word) : Bool := !(byteOf t 2#2).getLsbD 5

/-- `SAFE(t)`: bit 5 of byte 3 is 1 (R53). -/
def safe (t : Word) : Bool := (byteOf t 3#2).getLsbD 5

/-- `is_alpha(b)`: an upper-case or a lower-case ASCII letter, unsigned on 8 bits (R6, R54). -/
def isAlpha (b : Byte) : Bool :=
  (decide (0x41 ≤ b.toNat) && decide (b.toNat ≤ 0x5A)) || (decide (0x61 ≤ b.toNat) && decide (b.toNat ≤ 0x7A))

/-- `ALPHA(t)`: all four bytes are letters (R54). -/
def alpha (t : Word) : Bool :=
  isAlpha (byteOf t 0#2) && isAlpha (byteOf t 1#2) && isAlpha (byteOf t 2#2) && isAlpha (byteOf t 3#2)

/-- `VALID(t) = ALPHA(t) and RSVOK(t)` (R55). -/
def valid (t : Word) : Bool := alpha t && rsvok t

/-- `FLAGS(t)` (R57): CRIT, PUB, RSVOK, SAFE, ALPHA, VALID in bits 0 to 5. -/
def flags (t : Word) : Word :=
  boolWord (crit t) + 2#32 * boolWord (pub t) + 4#32 * boolWord (rsvok t) + 8#32 * boolWord (safe t)
    + 16#32 * boolWord (alpha t) + 32#32 * boolWord (valid t)

/-- The word SYS.STAT reads (R19, R85): bit 0 = EFMT, bit 1 = ECRC, bit 2 = EILL, bits 31:3 = 0. -/
def Status.word (st : Status) : Word :=
  0#29 ++ (BitVec.ofBool st.eill ++ BitVec.ofBool st.ecrc ++ BitVec.ofBool st.efmt)

/-- The number on `rsp_code` (R47). -/
def RspCode.bits : RspCode → BitVec Config.rspCodeWidth
  | .ok => 0#2
  | .formatError => 1#2
  | .crcMismatchError => 2#2
  | .illegalCommand => 3#2

end Sys2Proof.Machine
end

