-- ==== Sys2Proof/Machine/Ops.lean ====
section
/-! DEFINITION. The shared operations on the state: register writes, the response, raising a fault, reset, and the
handshake of the ports (`30_encoding.md` R46, R47; `60_exceptions.md` R86 to R95; `70_reset_and_hazards.md` R106). -/

namespace Sys2Proof.Machine

/-- `TYPE <- v` (R11). -/
def State.setType (s : State) (v : Word) : State := { s with regs := { s.regs with type := v } }

/-- `CRC <- v` (R11). -/
def State.setCrc (s : State) (v : Word) : State := { s with regs := { s.regs with crc := v } }

/-- `EXPECT <- v` (R11). -/
def State.setExpect (s : State) (v : Word) : State := { s with regs := { s.regs with expect := v } }

/-- `LEN <- v` (R11). -/
def State.setLen (s : State) (v : Word) : State := { s with regs := { s.regs with len := v } }

/-- A write of the three sticky flags together (R11). -/
def State.setStatus (s : State) (v : Status) : State := { s with regs := { s.regs with status := v } }

/-- All five registers to their reset values (R21): the effect SYS.RST and hardware reset share (R84). -/
def State.resetRegs (s : State) : State := { s with regs := Regs.reset }

/-- `respond(code, data)`: the command's one response, presented on the response channel (R11, R46, R47). -/
def State.respond (s : State) (code : RspCode) (data : Word) : State :=
  { s with rsp := some { code := code, data := data } }

/-- The status with the one sticky flag of a fault set; a flag already 1 stays 1, and code 0 has no flag (R86, R93). -/
def Status.raise (st : Status) : RspCode → Status
  | .ok => st
  | .formatError => { st with efmt := true }
  | .crcMismatchError => { st with ecrc := true }
  | .illegalCommand => { st with eill := true }

/-- Taking a fault (R87 to R89, R93): the one sticky flag is set and the response `(code, d)` given; "every other
register keeps its value". Nothing is saved and control goes nowhere, so there is no return beside it: "There is no
return-from-fault command, because fault entry changes no control state" (R94). -/
def State.raise (s : State) (code : RspCode) (d : Word) : State :=
  (s.setStatus (s.regs.status.raise code)).respond code d

/-- `raise FormatError(d)` (R87). -/
def State.raiseFormatError (s : State) (d : Word) : State := s.raise .formatError d

/-- `raise CrcMismatchError(d)` (R88). -/
def State.raiseCrcMismatchError (s : State) (d : Word) : State := s.raise .crcMismatchError d

/-- `raise IllegalCommand(d)` (R89). -/
def State.raiseIllegalCommand (s : State) (d : Word) : State := s.raise .illegalCommand d

/-- The host takes the outstanding response, if there is one (R46): it joins the responses taken, and the channel is
free again. With none outstanding nothing is taken (log entry 5). -/
def State.takeResponse (s : State) : State :=
  { s with rsp := none, taken := s.taken ++ s.rsp.toList }

/-- Hardware reset (R106): the registers take their reset values, and a response that had not yet been taken is
discarded. What the host does next, and what it has taken, are the host's. -/
def State.hardReset (s : State) : State := { s.resetRegs with rsp := none }

/-- The response channel as the host sees it (R46, R106): `rsp_valid` is 0 while `rst` = 1. -/
def State.rspPort (s : State) (rst : Bool) : Option Response := if rst then none else s.rsp

/-- `rsp_valid` (R46, R106). -/
def State.rspValid (s : State) (rst : Bool) : Bool := (s.rspPort rst).isSome

/-- `cmd_ready` (R46, R106): 1 while no command is outstanding and `rst` = 0. -/
def State.cmdReady (s : State) (rst : Bool) : Bool := !rst && s.rsp.isNone

/-- The sideband outputs `ty_crit`, `ty_pub`, `ty_rsvok`, `ty_safe`, `ty_alpha`, `ty_valid` (R46), in this order. -/
def State.sideband (s : State) : List Bool :=
  [crit s.regs.type, pub s.regs.type, rsvok s.regs.type, safe s.regs.type, alpha s.regs.type, valid s.regs.type]

/-- All responses the PCU has given the host and not discarded, oldest first: those taken, then the outstanding one
(R34 (d), R108). -/
def State.responses (s : State) : List Response := s.taken ++ s.rsp.toList

end Sys2Proof.Machine
end

