-- ==== Sys2Proof/Machine/ChunkType.lean ====
section
/-! DEFINITION. The chunk-type commands (`40_chunk_type.md` R58 to R63). -/

namespace Sys2Proof.Machine

/-- TYP.LD `w` (R58). -/
def execTypLd (w : Word) (s : State) : Result := .next ((s.setType w).respond .ok 0#32)

/-- TYP.LDS `w` (R59): the reserved bit is not checked, and on a fault `TYPE` keeps its old value. -/
def execTypLds (w : Word) (s : State) : Result :=
  .next (if alpha w then (s.setType w).respond .ok 0#32 else s.raiseFormatError w)

/-- TYP.PUSH `b` (R60). -/
def execTypPush (b : Byte) (s : State) : Result :=
  .next ((s.setType (shiftInByte s.regs.type b)).respond .ok 0#32)

/-- TYP.RD (R61). -/
def execTypRd (s : State) : Result := .next (s.respond .ok s.regs.type)

/-- TYP.FLG (R62). -/
def execTypFlg (s : State) : Result := .next (s.respond .ok (flags s.regs.type))

/-- TYP.EQ `w` (R63). -/
def execTypEq (w : Word) (s : State) : Result := .next (s.respond .ok (boolWord (s.regs.type == w)))

end Sys2Proof.Machine
end

