-- ==== Sys2Proof/Machine/Crc.lean ====
section
/-! DEFINITION. The CRC, length and stored-CRC commands (`41_crc.md` R71 to R80). -/

namespace Sys2Proof.Machine

/-- CRC.INIT (R71): the sticky flags are not cleared. -/
def execCrcInit (s : State) : Result := .next (((s.setCrc crcInitValue).setLen 0#32).respond .ok 0#32)

/-- CRC.BYTE `b` (R72): `LEN` wraps without a fault. -/
def execCrcByte (b : Byte) (s : State) : Result :=
  .next (((s.setCrc (crcByte s.regs.crc b)).setLen (s.regs.len + 1#32)).respond .ok 0#32)

/-- CRC.TYPE (R73): the four bytes of `TYPE`, byte 0 first; `LEN` is not changed. -/
def execCrcType (s : State) : Result :=
  .next ((s.setCrc (crcBytes s.regs.crc (wireBytes s.regs.type))).respond .ok 0#32)

/-- CRC.RD (R74). -/
def execCrcRd (s : State) : Result := .next (s.respond .ok (finalCrc s.regs.crc))

/-- CRC.RDB `k` (R75): `k` = 0 is the most significant byte. -/
def execCrcRdb (k : ByteIndex) (s : State) : Result :=
  .next (s.respond .ok (zextByte (byteOf (finalCrc s.regs.crc) k)))

/-- LEN.RD (R76). -/
def execLenRd (s : State) : Result := .next (s.respond .ok s.regs.len)

/-- EXP.LD `w` (R77). -/
def execExpLd (w : Word) (s : State) : Result := .next ((s.setExpect w).respond .ok 0#32)

/-- EXP.PUSH `b` (R78). -/
def execExpPush (b : Byte) (s : State) : Result :=
  .next ((s.setExpect (shiftInByte s.regs.expect b)).respond .ok 0#32)

/-- EXP.RD (R79). -/
def execExpRd (s : State) : Result := .next (s.respond .ok s.regs.expect)

/-- CRC.CHK (R80): the comparison is with the finalised value, which is the data in both outcomes. -/
def execCrcChk (s : State) : Result :=
  .next (if finalCrc s.regs.crc = s.regs.expect then s.respond .ok (finalCrc s.regs.crc)
    else s.raiseCrcMismatchError (finalCrc s.regs.crc))

end Sys2Proof.Machine
end

