-- ==== Sys2Proof/Machine/System.lean ====
section
/-! DEFINITION. The system commands SYS.RST and SYS.STAT (`42_system.md` R84, R85). -/

namespace Sys2Proof.Machine

/-- SYS.RST (R84). -/
def execSysRst (s : State) : Result := .next (s.resetRegs.respond .ok 0#32)

/-- SYS.STAT (R85): reading does not clear the flags. -/
def execSysStat (s : State) : Result := .next (s.respond .ok s.regs.status.word)

end Sys2Proof.Machine
end

