-- ==== Sys2Proof/Machine/Dispatch.lean ====
section
/-! DEFINITION. The dispatch: one arm per constructor of `Instr`, each one direct call of its meaning. -/

namespace Sys2Proof.Machine

def exec (i : Instr) (s : State) : Host.Outcome State Fault Refusal :=
  match i with
  | .sysRst => Sys2Proof.Machine.execSysRst s
  | .sysStat => Sys2Proof.Machine.execSysStat s
  | .typLd w => Sys2Proof.Machine.execTypLd w s
  | .typLds w => Sys2Proof.Machine.execTypLds w s
  | .typPush b => Sys2Proof.Machine.execTypPush b s
  | .typRd => Sys2Proof.Machine.execTypRd s
  | .typFlg => Sys2Proof.Machine.execTypFlg s
  | .typEq w => Sys2Proof.Machine.execTypEq w s
  | .crcInit => Sys2Proof.Machine.execCrcInit s
  | .crcByte b => Sys2Proof.Machine.execCrcByte b s
  | .crcType => Sys2Proof.Machine.execCrcType s
  | .crcRd => Sys2Proof.Machine.execCrcRd s
  | .crcRdb k => Sys2Proof.Machine.execCrcRdb k s
  | .lenRd => Sys2Proof.Machine.execLenRd s
  | .expLd w => Sys2Proof.Machine.execExpLd w s
  | .expPush b => Sys2Proof.Machine.execExpPush b s
  | .expRd => Sys2Proof.Machine.execExpRd s
  | .crcChk => Sys2Proof.Machine.execCrcChk s

end Sys2Proof.Machine
end

