-- ==== Sys2Proof/Machine/Port.lean ====
section
/-! DEFINITION. What one step does at the ports (`20_memory.md` R34; `30_encoding.md` R44, R46; `70_reset_and_hazards.md`
R106): a command is accepted, a response is taken, or the PCU is reset. -/

namespace Sys2Proof.Machine

/-- An accepted command word runs (R44): a word that matches a row executes that row's rule, any other raises
IllegalCommand with `zext_32(cmd[39:32])`. -/
def runCommand (cmd : CmdWord) (s : State) : Result :=
  match decode cmd with
  | .ok i => exec i s
  | .error _ => .next (s.raiseIllegalCommand (zextByte (cmdOp cmd)))

/-- A command is presented while `cmd_ready` = 0: the host holds it ("stable while `cmd_valid` = 1 and `cmd_ready` = 0",
R46), and what it does next besides, taking the response or resetting, happens while it does. `rest` is the schedule after
the held command; with nothing there, or a further command only, the host waits (log entry 2). -/
def whileHeld (cmd : CmdWord) (rest : List PortEvent) : Option (PortEvent × List PortEvent) :=
  match rest with
  | [] => none
  | .command _ :: _ => none
  | .take :: more => some (.take, .command cmd :: more)
  | .reset :: more => some (.reset, .command cmd :: more)

/-- What happens next at the ports, and the host's schedule after it; none if nothing does. A presented command happens,
that is, is accepted, only with `cmd_ready` = 1: "After accepting a command the PCU drives `cmd_ready` = 0 until the
response to that command has been taken" (R46). -/
def State.nextEvent (s : State) : Option (PortEvent × List PortEvent) :=
  match s.input with
  | [] => none
  | .command cmd :: rest => if s.cmdReady false then some (.command cmd, rest) else whileHeld cmd rest
  | .take :: rest => some (.take, rest)
  | .reset :: rest => some (.reset, rest)

/-- One event at the ports. With none the PCU waits: nothing but a command or reset changes its state (R34 (e), log
entry 4). -/
def portStep (s : State) : Result :=
  match s.nextEvent with
  | none => .next s
  | some (.command cmd, rest) => runCommand cmd { s with input := rest }
  | some (.take, rest) => .next { s.takeResponse with input := rest }
  | some (.reset, rest) => .next { s.hardReset with input := rest }

/-- The host presents `cmd` as its next event. -/
def State.present (s : State) (cmd : CmdWord) : State := { s with input := .command cmd :: s.input }

end Sys2Proof.Machine
end

