-- ==== Sys2Proof/Machine/Step.lean ====
section
/-! DEFINITION. The step function, and where it fetches its next instruction: the host's next event at the command port,
for the PCU fetches nothing itself (`10_state.md` R14, R24). -/

namespace Sys2Proof.Machine

/-- One event at the ports of the PCU (`20_memory.md` R34, `30_encoding.md` R46). -/
def step (s : State) : Host.Outcome State Fault Refusal := portStep s

/-- `s` with the table word `w` presented as the host's next command and `cmd_ready` = 1, for which an outstanding response
must have been taken (R46), so that the very next step accepts and runs it. -/
def State.withFetchWord (s : State) (nbits w : Nat) : State := s.takeResponse.present (tableWord nbits w)

end Sys2Proof.Machine
end

