-- ==== Sys2Proof/Machine/Asm.lean ====
section
/-! DEFINITION. The assembler on statements (`30_encoding.md` R48, R49): a line with an operand in range gives its
command, a pseudo-instruction the sequence it abbreviates, anything else an assembly error (`none`). -/

namespace Sys2Proof.Machine

/-- The character code of a character literal or of one character of a string literal (R48). -/
def charByte (c : Char) : Byte := BitVec.ofNat 8 c.toNat

/-- A format B operand's byte; none out of range (R48). -/
def asmByte (o : AsmOperand) : Option Byte :=
  match o with
  | .num n => if n ≤ 255 then some (BitVec.ofNat 8 n) else none
  | .chr c => if printable c then some (charByte c) else none
  | .str _ => none

/-- A format K operand's index; none out of range (R48). -/
def asmIndex (o : AsmOperand) : Option ByteIndex :=
  match o with
  | .num n => if n ≤ 3 then some (BitVec.ofNat 2 n) else none
  | .chr _ => none
  | .str _ => none

/-- `word(c0, c1, c2, c3)` of the character codes of a literal of exactly 4 printable characters (R48). -/
def asmWordOfChars : List Char → Option Word
  | [c0, c1, c2, c3] =>
    if printable c0 && printable c1 && printable c2 && printable c3 then
      some (wordOf (charByte c0) (charByte c1) (charByte c2) (charByte c3))
    else none
  | [] => none
  | [_] => none
  | [_, _] => none
  | [_, _, _] => none
  | _ :: _ :: _ :: _ :: _ :: _ => none

/-- A format W operand's word; none out of range (R48). -/
def asmWord (o : AsmOperand) : Option Word :=
  match o with
  | .num n => if n < 2 ^ 32 then some (BitVec.ofNat 32 n) else none
  | .str cs => asmWordOfChars cs
  | .chr _ => none

/-- Format N: no operand may stand (R48). -/
def asmNone (i : Instr) : Option AsmOperand → Option Instr
  | none => some i
  | some _ => none

/-- A format with one operand: exactly one must stand, in range (R48). -/
def asmOne {α : Type} (read : AsmOperand → Option α) (f : α → Instr) : Option AsmOperand → Option Instr
  | none => none
  | some o => (read o).map f

/-- One command line (R48): "a mnemonic of rule R43 in upper case, then for formats B, K and W one operand". -/
def asmCommand (m : Mnemonic) (o : Option AsmOperand) : Option Instr :=
  match m with
  | .sysRst => asmNone .sysRst o
  | .sysStat => asmNone .sysStat o
  | .typLd => asmOne asmWord .typLd o
  | .typLds => asmOne asmWord .typLds o
  | .typPush => asmOne asmByte .typPush o
  | .typRd => asmNone .typRd o
  | .typFlg => asmNone .typFlg o
  | .typEq => asmOne asmWord .typEq o
  | .crcInit => asmNone .crcInit o
  | .crcByte => asmOne asmByte .crcByte o
  | .crcType => asmNone .crcType o
  | .crcRd => asmNone .crcRd o
  | .crcRdb => asmOne asmIndex .crcRdb o
  | .lenRd => asmNone .lenRd o
  | .expLd => asmOne asmWord .expLd o
  | .expPush => asmOne asmByte .expPush o
  | .expRd => asmNone .expRd o
  | .crcChk => asmNone .crcChk o

/-- The bytes of a list of format B operands; none if one of them is out of range. -/
def asmBytes : List AsmOperand → Option (List Byte)
  | [] => some []
  | o :: os =>
    match asmByte o, asmBytes os with
    | some b, some bs => some (b :: bs)
    | none, _ => none
    | some _, none => none

/-- A character that may stand in `CRC.STR`: printable and no double quote (R49). -/
def asmStrChar (c : Char) : Bool := printable c && !(c == '"')

/-- The commands a statement stands for (R48, R49), in order; none is an assembly error. -/
def assemble : AsmStmt → Option (List Instr)
  | .command m o => (asmCommand m o).map fun i => [i]
  | .crcBytes [] => none
  | .crcBytes (b :: bs) => (asmBytes (b :: bs)).map fun l => l.map Instr.crcByte
  | .crcStr cs => if cs.all asmStrChar then some (cs.map fun c => Instr.crcByte (charByte c)) else none
  | .typBytes t0 t1 t2 t3 => (asmBytes [t0, t1, t2, t3]).map fun l => l.map Instr.typPush
  | .expBytes e0 e1 e2 e3 => (asmBytes [e0, e1, e2, e3]).map fun l => l.map Instr.expPush

end Sys2Proof.Machine
end

