-- ==== Sys2Proof/Machine/AsmText.lean ====
section
/-! DEFINITION. The assembler's text (`30_encoding.md` R48, R49): from the characters of a line to its statement. What
R48 leaves to the reader (white space, blank lines, the case of hexadecimal digits, a `;` inside a literal) is log
entry 11. -/

namespace Sys2Proof.Machine

/-- A space or a tab. -/
def isBlank (c : Char) : Bool := c == ' ' || c == '\t'

/-- The text after leading blanks. -/
def skipBlanks (cs : List Char) : List Char := cs.dropWhile isBlank

/-- Nothing but blanks and a comment is left: "a `;` starts a comment that runs to the end of the line" (R48). -/
def atLineEnd (cs : List Char) : Bool :=
  match skipBlanks cs with
  | [] => true
  | c :: _ => c == ';'

/-- A character of a mnemonic or of a number. -/
def isTokenChar (c : Char) : Bool := c.isAlphanum || c == '.'

/-- The sixteen digits in rising order of value; decimal uses the first ten (R48). Hexadecimal digits may be of either
case (log entry 11). -/
def upperDigits : List Char := "0123456789ABCDEF".toList

/-- The same digits with the letters in lower case. -/
def lowerDigits : List Char := "0123456789abcdef".toList

/-- The value of a digit is its place among the digits. -/
def digitValue (c : Char) : Option Nat := (upperDigits.idxOf? c).or (lowerDigits.idxOf? c)

/-- Digits of a base, most significant first, onto the value read so far. -/
def readDigits (base : Nat) : Nat → List Char → Option Nat
  | acc, [] => some acc
  | acc, c :: cs =>
    match digitValue c with
    | some d => if d < base then readDigits base (acc * base + d) cs else none
    | none => none

/-- "an unsigned number in decimal or in hexadecimal with the prefix `0x`" (R48). -/
def readNumber : List Char → Option Nat
  | [] => none
  | '0' :: 'x' :: [] => none
  | '0' :: 'x' :: d :: ds => readDigits 16 0 (d :: ds)
  | c :: cs => readDigits 10 0 (c :: cs)

/-- One operand and the text after it (R48): a string literal of 4 characters, a character literal, or a number. -/
def readOperand : List Char → Option (AsmOperand × List Char)
  | '"' :: c0 :: c1 :: c2 :: c3 :: '"' :: rest => some (.str [c0, c1, c2, c3], rest)
  | '\'' :: c :: '\'' :: rest => some (.chr c, rest)
  | cs => (readNumber (cs.takeWhile isTokenChar)).map fun n => (.num n, cs.dropWhile isTokenChar)

/-- Operands separated by commas (R49); `fuel` bounds their number. -/
def readOperands : Nat → List Char → Option (List AsmOperand × List Char)
  | 0, _ => none
  | fuel + 1, cs =>
    match readOperand (skipBlanks cs) with
    | none => none
    | some (o, rest) =>
      match skipBlanks rest with
      | ',' :: more => (readOperands fuel more).map fun r => (o :: r.1, r.2)
      | after => some ([o], after)

/-- The text of a quoted string up to its closing double quote, and the text after it (R49). -/
def readQuoted : List Char → Option (List Char × List Char)
  | [] => none
  | '"' :: rest => some ([], rest)
  | c :: rest => (readQuoted rest).map fun r => (c :: r.1, r.2)

/-- The spelling of each mnemonic (R43). -/
def Mnemonic.text : Mnemonic → List Char
  | .sysRst => "SYS.RST".toList
  | .sysStat => "SYS.STAT".toList
  | .typLd => "TYP.LD".toList
  | .typLds => "TYP.LDS".toList
  | .typPush => "TYP.PUSH".toList
  | .typRd => "TYP.RD".toList
  | .typFlg => "TYP.FLG".toList
  | .typEq => "TYP.EQ".toList
  | .crcInit => "CRC.INIT".toList
  | .crcByte => "CRC.BYTE".toList
  | .crcType => "CRC.TYPE".toList
  | .crcRd => "CRC.RD".toList
  | .crcRdb => "CRC.RDB".toList
  | .lenRd => "LEN.RD".toList
  | .expLd => "EXP.LD".toList
  | .expPush => "EXP.PUSH".toList
  | .expRd => "EXP.RD".toList
  | .crcChk => "CRC.CHK".toList

/-- The mnemonic a row of the table has by its spelling. -/
def mnemonicOf (word : List Char) : Option Mnemonic :=
  (opcodeTable.map OpcodeRow.mnemonic).find? fun m => Mnemonic.text m == word

/-- A command line after its mnemonic: no operand, or one, then the end of the line (R48). -/
def readCommand (m : Mnemonic) (cs : List Char) : Option AsmStmt :=
  if atLineEnd cs then some (.command m none)
  else
    match readOperand (skipBlanks cs) with
    | some (o, rest) => if atLineEnd rest then some (.command m (some o)) else none
    | none => none

/-- `CRC.STR "text"` after its name (R49). -/
def readCrcStr (cs : List Char) : Option AsmStmt :=
  match skipBlanks cs with
  | '"' :: text =>
    match readQuoted text with
    | some (chars, rest) => if atLineEnd rest then some (.crcStr chars) else none
    | none => none
  | _ => none

/-- A pseudo-instruction with a list of byte operands, after its name (R49). -/
def readByteList (build : List AsmOperand → Option AsmStmt) (cs : List Char) : Option AsmStmt :=
  match readOperands cs.length cs with
  | some (os, rest) => if atLineEnd rest then build os else none
  | none => none

/-- `TYP.BYTES` and `EXP.BYTES` take exactly four operands (R49). -/
def fourOperands (f : AsmOperand → AsmOperand → AsmOperand → AsmOperand → AsmStmt) :
    List AsmOperand → Option AsmStmt
  | [o0, o1, o2, o3] => some (f o0 o1 o2 o3)
  | _ => none

/-- The statement that begins with the name `word` and goes on with `cs` (R48, R49). -/
def readStmt (word cs : List Char) : Option AsmStmt :=
  if word == "CRC.BYTES".toList then readByteList (fun os => some (.crcBytes os)) cs
  else if word == "CRC.STR".toList then readCrcStr cs
  else if word == "TYP.BYTES".toList then readByteList (fourOperands .typBytes) cs
  else if word == "EXP.BYTES".toList then readByteList (fourOperands .expBytes) cs
  else
    match mnemonicOf word with
    | some m => readCommand m cs
    | none => none

/-- The commands one line of text assembles to; an assembly error is `none`, and a line with no statement (blank or only
a comment) gives no command (log entry 11). -/
def assembleLine (cs : List Char) : Option (List Instr) :=
  if atLineEnd cs then some []
  else
    match readStmt ((skipBlanks cs).takeWhile isTokenChar) ((skipBlanks cs).dropWhile isTokenChar) with
    | some st => assemble st
    | none => none

/-- "A program is a sequence of lines" (R48): the commands of all of them, in order. -/
def assembleProgram : List (List Char) → Option (List Instr)
  | [] => some []
  | l :: ls =>
    match assembleLine l, assembleProgram ls with
    | some a, some b => some (a ++ b)
    | none, _ => none
    | some _, none => none

end Sys2Proof.Machine
end

