-- ==== Sys2Proof/Machine/Record.lean ====
section
/-! DEFINITION. The chunk record the host walks (`20_memory.md` R26, R27) and the command sequences of `41_crc.md` R83
that build and verify one. They are the host's, outside the machine; statements about the PCU use them. -/

namespace Sys2Proof.Machine

/-- The bytes a record's CRC covers: the 4 type bytes, then the data bytes (R27). -/
def coveredBytes (t : Word) (data : List Byte) : List Byte := wireBytes t ++ data

/-- The wire format of one chunk record (R26): length, type, data, crc, all multi-byte numbers big-endian. Data of 2^32
bytes or more no record can express (`92_eei_decisions.md` D20); there the length modulo 2^32 is written, a DESIGN CHOICE
(log entry 16). -/
def recordBytes (t : Word) (data : List Byte) (crc : Word) : List Byte :=
  wireBytes (BitVec.ofNat 32 data.length) ++ wireBytes t ++ data ++ wireBytes crc

/-- The record of a chunk: its stored CRC is the checksum of type and data (R26). -/
def chunkRecord (t : Word) (data : List Byte) : List Byte := recordBytes t data (crc32 (coveredBytes t data))

/-- The 8-byte file signature (R26). -/
def fileSignature : List Byte := [0x89#8, 0x50#8, 0x4E#8, 0x47#8, 0x0D#8, 0x0A#8, 0x1A#8, 0x0A#8]

/-- A file: the signature, then the records of its chunks, each a type with its data (R26). -/
def fileBytes (chunks : List (Word × List Byte)) : List Byte :=
  fileSignature ++ chunks.flatMap fun c => chunkRecord c.1 c.2

/-- The four TYP.PUSH of `TYP.BYTES` (R49, R83 (b)). -/
def pushType (t0 t1 t2 t3 : Byte) : List Instr := [.typPush t0, .typPush t1, .typPush t2, .typPush t3]

/-- The four EXP.PUSH of `EXP.BYTES` (R49, R83 (b)). -/
def pushExpect (e0 e1 e2 e3 : Byte) : List Instr := [.expPush e0, .expPush e1, .expPush e2, .expPush e3]

/-- One CRC.BYTE per data byte, in stream order (R27). -/
def feedBytes (data : List Byte) : List Instr := data.map Instr.crcByte

/-- Encoding a new chunk, R83 (a), up to the reads: the type load (TYP.LD, "or TYP.LDS when the type comes from a
string"), CRC.INIT, CRC.TYPE, the data bytes. -/
def buildSequence (load : Instr) (data : List Byte) : List Instr :=
  [load, .crcInit, .crcType] ++ feedBytes data

/-- The serialised CRC, R83 (a): "the bytes returned by CRC.RDB 0, 1, 2, 3 in that order". -/
def readCrcBytes : List Instr := [.crcRdb 0#2, .crcRdb 1#2, .crcRdb 2#2, .crcRdb 3#2]

/-- Parsing a record, R83 (b). -/
def parseSequence (t0 t1 t2 t3 : Byte) (data : List Byte) (e0 e1 e2 e3 : Byte) : List Instr :=
  [.crcInit] ++ pushType t0 t1 t2 t3 ++ [.crcType] ++ feedBytes data ++ pushExpect e0 e1 e2 e3 ++ [.crcChk]

end Sys2Proof.Machine
end

