-- ==== Sys2Proof/Safety.lean ====
section
/-! DEFINITION. The words claims are stated in: runs (`70_reset_and_hazards.md` R108), clean states, the bytes fed since
the last CRC.INIT (`41_crc.md` R74), and the invariant that ties the sticky flags to the responses given. -/

namespace Sys2Proof.Machine

/-- The host issues the command words `ws`, in order, before anything else, and before each takes the response to the
command before, without which it is not accepted (R46). -/
def State.presentAll (s : State) (ws : List CmdWord) : State :=
  { s with input := (ws.flatMap fun w => [PortEvent.take, .command w]) ++ s.input }

/-- `n` steps, stopping at the first fault or refusal. -/
def steps : Nat → State → Result
  | 0, s => .next s
  | n + 1, s =>
    match step s with
    | .next t => steps n t
    | .fault r => .fault r
    | .refused r => .refused r

/-- The host issues `ws` in order and the PCU runs them (R34, R108): for each word one step in which the response before
it is taken and one in which it is accepted. The last response is left outstanding. -/
def runWords (ws : List CmdWord) (s : State) : Result := steps (2 * ws.length) (s.presentAll ws)

/-- The same for commands, each issued as its encoded word. -/
def runInstrs (is : List Instr) (s : State) : Result := runWords (is.map encode) s

/-- The transaction function `state_(n+1), response_n = step(state_n, cmd_n)` of R34, on the registers alone: what the
rule of each command says, written once more from the pseudocode without the ports. -/
def transact (r : Regs) (cmd : CmdWord) : Regs × Response :=
  match decode cmd with
  | .error _ => ({ r with status := { r.status with eill := true } }, ⟨.illegalCommand, zextByte (cmdOp cmd)⟩)
  | .ok .sysRst => (Regs.reset, ⟨.ok, 0#32⟩)
  | .ok .sysStat => (r, ⟨.ok, r.status.word⟩)
  | .ok (.typLd w) => ({ r with type := w }, ⟨.ok, 0#32⟩)
  | .ok (.typLds w) =>
    if alpha w then ({ r with type := w }, ⟨.ok, 0#32⟩)
    else ({ r with status := { r.status with efmt := true } }, ⟨.formatError, w⟩)
  | .ok (.typPush b) => ({ r with type := (r.type <<< 8) ||| zextByte b }, ⟨.ok, 0#32⟩)
  | .ok .typRd => (r, ⟨.ok, r.type⟩)
  | .ok .typFlg => (r, ⟨.ok, flags r.type⟩)
  | .ok (.typEq w) => (r, ⟨.ok, if r.type = w then 1#32 else 0#32⟩)
  | .ok .crcInit => ({ r with crc := 0xFFFFFFFF#32, len := 0#32 }, ⟨.ok, 0#32⟩)
  | .ok (.crcByte b) => ({ r with crc := crcByte r.crc b, len := r.len + 1#32 }, ⟨.ok, 0#32⟩)
  | .ok .crcType => ({ r with crc := crcBytes r.crc (wireBytes r.type) }, ⟨.ok, 0#32⟩)
  | .ok .crcRd => (r, ⟨.ok, r.crc ^^^ 0xFFFFFFFF#32⟩)
  | .ok (.crcRdb k) => (r, ⟨.ok, zextByte (byteOf (r.crc ^^^ 0xFFFFFFFF#32) k)⟩)
  | .ok .lenRd => (r, ⟨.ok, r.len⟩)
  | .ok (.expLd w) => ({ r with expect := w }, ⟨.ok, 0#32⟩)
  | .ok (.expPush b) => ({ r with expect := (r.expect <<< 8) ||| zextByte b }, ⟨.ok, 0#32⟩)
  | .ok .expRd => (r, ⟨.ok, r.expect⟩)
  | .ok .crcChk =>
    if r.crc ^^^ 0xFFFFFFFF#32 = r.expect then (r, ⟨.ok, r.crc ^^^ 0xFFFFFFFF#32⟩)
    else ({ r with status := { r.status with ecrc := true } }, ⟨.crcMismatchError, r.crc ^^^ 0xFFFFFFFF#32⟩)

/-- "a fold of a total step function over the command sequence" (R34, R108): the final registers and the responses. -/
def foldTransact : Regs → List CmdWord → Regs × List Response
  | r, [] => (r, [])
  | r, w :: ws => ((foldTransact (transact r w).1 ws).1, (transact r w).2 :: (foldTransact (transact r w).1 ws).2)

/-- No fault has been raised since reset (R19). -/
def State.clean (s : State) : Bool := decide (s.regs.status = Status.clear)

/-- A response of this code is among those given to the host. -/
def State.reported (s : State) (code : RspCode) : Bool := s.responses.any fun r => r.code == code

/-- Every sticky flag that is up has been reported to the host in a response ("no error is silently swallowed", R19). -/
def State.flagsReported (s : State) : Bool :=
  (!s.regs.status.efmt || s.reported .formatError) && (!s.regs.status.ecrc || s.reported .crcMismatchError)
    && (!s.regs.status.eill || s.reported .illegalCommand)

/-- The bytes fed since the last CRC.INIT or reset, after a command that found `TYPE = t` and `fed` before (R74). -/
def fedAfter (t : Word) (fed : List Byte) : Instr → List Byte
  | .sysRst => []
  | .sysStat => fed
  | .typLd _ => fed
  | .typLds _ => fed
  | .typPush _ => fed
  | .typRd => fed
  | .typFlg => fed
  | .typEq _ => fed
  | .crcInit => []
  | .crcByte b => fed ++ [b]
  | .crcType => fed ++ wireBytes t
  | .crcRd => fed
  | .crcRdb _ => fed
  | .lenRd => fed
  | .expLd _ => fed
  | .expPush _ => fed
  | .expRd => fed
  | .crcChk => fed

/-- `CRC` is the accumulator of the bytes fed (R16, R74). -/
def State.tracksBytes (s : State) (fed : List Byte) : Prop := s.regs.crc = crcBytes crcInitValue fed

/-- The data bytes fed since the last CRC.INIT or reset, counted without the modulus (R18). -/
def countAfter (n : Nat) : Instr → Nat
  | .sysRst => 0
  | .sysStat => n
  | .typLd _ => n
  | .typLds _ => n
  | .typPush _ => n
  | .typRd => n
  | .typFlg => n
  | .typEq _ => n
  | .crcInit => 0
  | .crcByte _ => n + 1
  | .crcType => n
  | .crcRd => n
  | .crcRdb _ => n
  | .lenRd => n
  | .expLd _ => n
  | .expPush _ => n
  | .expRd => n
  | .crcChk => n

/-- `LEN` is the count modulo 2^32 (R18). -/
def State.tracksCount (s : State) (n : Nat) : Prop := s.regs.len = BitVec.ofNat 32 n

/-- The commands R32 calls read commands. -/
def isReadCommand : Instr → Bool
  | .sysRst => false
  | .sysStat => true
  | .typLd _ => false
  | .typLds _ => false
  | .typPush _ => false
  | .typRd => true
  | .typFlg => true
  | .typEq _ => true
  | .crcInit => false
  | .crcByte _ => false
  | .crcType => false
  | .crcRd => true
  | .crcRdb _ => true
  | .lenRd => true
  | .expLd _ => false
  | .expPush _ => false
  | .expRd => true
  | .crcChk => false

end Sys2Proof.Machine
end

