-- ==== Sys2Proof/Certificates/Slice0/Obligations.lean ====
section
/-! DEFINITION. The statements for the provers. Each docstring names the rule of `spec/` it formalises. -/

open Sys2Proof Sys2Proof.Machine

/-! ## The step -/

/-- A presented word that decodes is accepted when no response is outstanding, and the step runs its command, the word taken
from the host's schedule (`20_memory.md` R34, `30_encoding.md` R44, R46). A word presented while a response is outstanding
is held: NotReadyUntilTheResponseIsTaken. -/
def Obligations.StepRunsTheDecodedCommand : Prop :=
  ∀ (s : State) (cmd : CmdWord) (rest : List PortEvent) (i : Instr),
    s.input = .command cmd :: rest → s.rsp = none → decode cmd = .ok i →
    step s = exec i { s with input := rest }

/-- `raise IllegalCommand(d)` (`60_exceptions.md` R89): an accepted word that matches no row sets EILL, responds `(3, zext op)`, and
every other register keeps its value. (What the step does at the ports is stated by EveryCommandIsAnswered.) -/
def Obligations.IllegalWordSetsOnlyEill : Prop :=
  ∀ (s : State) (cmd : CmdWord) (rest : List PortEvent) (e : DecodeReject),
    s.input = .command cmd :: rest → s.rsp = none → decode cmd = .error e →
    ∃ t, step s = .next t ∧
      t.regs = { s.regs with status := { s.regs.status with eill := true } } ∧
      t.rsp = some ⟨.illegalCommand, (cmdOp cmd).setWidth 32⟩

/-- Taking a response and waiting change no register and lose no response (`30_encoding.md` R46, `20_memory.md` R34 (e));
that a step with nothing presented answers the same state is the model's choice, log entry 4, and that a take with no
response outstanding does nothing is log entry 5. -/
def Obligations.TakingAndWaitingKeepTheRegisters : Prop :=
  ∀ (s : State),
    (s.input = [] → step s = .next s) ∧
    (∀ rest, s.input = .take :: rest →
      step s = .next { regs := s.regs, input := rest, rsp := none, taken := s.taken ++ s.rsp.toList })

/-- Hardware reset (`70_reset_and_hazards.md` R106), while nothing is presented or with a command held at the port: the
registers take the values of R21, an outstanding response is discarded, a command presented is not accepted, both
handshake outputs are 0 while `rst` = 1, and the PCU is ready afterwards. That the host's schedule and the responses it
has already taken survive is the model's choice, log entries 1 and 3; the held command's place in it is log entry 2. -/
def Obligations.HardwareResetDiscardsTheOutstandingResponse : Prop :=
  ∀ (s : State) (rest after : List PortEvent),
    (s.input = .reset :: rest ∧ after = rest) ∨
      (∃ cmd, s.rsp ≠ none ∧ s.input = .command cmd :: .reset :: rest ∧ after = .command cmd :: rest) →
    s.cmdReady true = false ∧ s.rspValid true = false ∧
    ∃ t, step s = .next t ∧
      t.regs = { type := 0x00000000#32, crc := 0xFFFFFFFF#32, expect := 0x00000000#32, len := 0x00000000#32,
                 status := { efmt := false, ecrc := false, eill := false } } ∧
      t.rsp = none ∧ t.taken = s.taken ∧ t.input = after ∧ t.cmdReady false = true ∧ t.rspValid false = false

/-- The handshake (`30_encoding.md` R46): `cmd_ready` = 1 exactly while no command is outstanding; accepting a command makes
it 0 and presents a response; while it is 0 a command presented is not accepted but held, whatever the host does next:
it stays at the head of the schedule, no register changes and no response is lost, and when the response has been taken
the PCU is ready and the next step accepts the held command. With nothing but commands to come the host never takes the
response, and the state stays as it is. How the schedule is read while a command is held is the model's choice, log
entry 2. -/
def Obligations.NotReadyUntilTheResponseIsTaken : Prop :=
  (∀ s : State, (s.cmdReady false = true ↔ s.rsp = none) ∧ s.rspValid false = !s.cmdReady false) ∧
  (∀ (s t : State) (cmd : CmdWord) (rest : List PortEvent),
    s.input = .command cmd :: rest → s.cmdReady false = true → step s = .next t →
    t.input = rest ∧ t.cmdReady false = false ∧ t.rspValid false = true) ∧
  (∀ (s : State) (cmd : CmdWord) (rest : List PortEvent),
    s.input = .command cmd :: rest → s.cmdReady false = false →
    (rest = [] → step s = .next s) ∧
    (∀ cmd' more, rest = .command cmd' :: more → step s = .next s) ∧
    (∀ more, rest = .take :: more → ∃ t, step s = .next t ∧ t.regs = s.regs ∧ t.responses = s.responses ∧
      t.rsp = none ∧ t.input = .command cmd :: more ∧ t.cmdReady false = true ∧
      step t = runCommand cmd { t with input := more }))

/-- Liveness (`70_reset_and_hazards.md` R111): every step answers a next state; every one of the 2^40 words is accepted
and answered, at once in every state with no response outstanding and one step later when the host takes the response
that is, whatever the sticky flags; and no response is lost but by hardware reset. -/
def Obligations.EveryCommandIsAnswered : Prop :=
  (∀ s : State, ∃ t, step s = .next t) ∧
  (∀ (s : State) (cmd : CmdWord) (rest : List PortEvent), s.input = .command cmd :: rest → s.rsp = none →
    ∃ t r, step s = .next t ∧ t.input = rest ∧ t.rsp = some r ∧ t.responses = s.responses ++ [r]) ∧
  (∀ (s : State) (cmd : CmdWord) (rest : List PortEvent), s.input = .command cmd :: .take :: rest → s.rsp ≠ none →
    ∃ t r, steps 2 s = .next t ∧ t.input = rest ∧ t.rsp = some r ∧ t.responses = s.responses ++ [r]) ∧
  (∀ s t : State, step s = .next t → (∀ rest, s.nextEvent ≠ some (.reset, rest)) → s.responses <+: t.responses)

/-- The PCU is a fold of the transaction function over the command sequence (`20_memory.md` R34,
`70_reset_and_hazards.md` R108): for every sequence of words and every start state, the final registers and the
responses, in order, are those of the fold of `transact`, which is written from the pseudocode without the ports. -/
def Obligations.MachineIsTheFoldOfTransactions : Prop :=
  ∀ (ws : List CmdWord) (s : State), ∃ t, runWords ws s = .next t ∧
    t.regs = (foldTransact s.regs ws).1 ∧ t.responses = s.responses ++ (foldTransact s.regs ws).2 ∧
    t.input = s.input

/-! ## State and reset -/

/-- The reset values (`10_state.md` R21), after hardware reset, after SYS.RST, and in the model's reset state, with the
consequences the table draws from them. -/
def Obligations.ResetValuesAndConsequences : Prop :=
  (∀ (s : State) (rest : List PortEvent), s.input = .reset :: rest → ∃ t, step s = .next t ∧
    t.regs = ⟨0x00000000#32, 0xFFFFFFFF#32, 0x00000000#32, 0x00000000#32, ⟨false, false, false⟩⟩) ∧
  (∀ s : State, ∃ t, exec .sysRst s = .next t ∧
    t.regs = ⟨0x00000000#32, 0xFFFFFFFF#32, 0x00000000#32, 0x00000000#32, ⟨false, false, false⟩⟩) ∧
  State.reset.regs = ⟨0x00000000#32, 0xFFFFFFFF#32, 0x00000000#32, 0x00000000#32, ⟨false, false, false⟩⟩ ∧
  (∀ b ∈ wireBytes 0x00000000#32, isAlpha b = false) ∧
  (alpha 0x00000000#32 = false ∧ valid 0x00000000#32 = false ∧ crit 0x00000000#32 = true ∧
    pub 0x00000000#32 = true ∧ rsvok 0x00000000#32 = true ∧ safe 0x00000000#32 = false) ∧
  (∀ s : State,
    s.regs = ⟨0x00000000#32, 0xFFFFFFFF#32, 0x00000000#32, 0x00000000#32, ⟨false, false, false⟩⟩ →
    exec .typFlg s = .next { s with rsp := some ⟨.ok, 0x00000007#32⟩ } ∧
    exec .crcRd s = .next { s with rsp := some ⟨.ok, 0x00000000#32⟩ } ∧
    exec .crcChk s = .next { s with rsp := some ⟨.ok, 0x00000000#32⟩ } ∧
    exec .sysStat s = .next { s with rsp := some ⟨.ok, 0x00000000#32⟩ })

/-- Which commands write which register (the "written by" column of `10_state.md` R12), for all 18 commands; a command
touches neither the host's schedule nor the responses already taken. -/
def Obligations.RegistersAreWrittenOnlyByTheirCommands : Prop :=
  ∀ (i : Instr) (s t : State), exec i s = .next t →
    (t.regs.type ≠ s.regs.type →
      i = .sysRst ∨ (∃ w, i = .typLd w) ∨ (∃ w, i = .typLds w) ∨ (∃ b, i = .typPush b)) ∧
    (t.regs.crc ≠ s.regs.crc → i = .sysRst ∨ i = .crcInit ∨ (∃ b, i = .crcByte b) ∨ i = .crcType) ∧
    (t.regs.expect ≠ s.regs.expect → i = .sysRst ∨ (∃ w, i = .expLd w) ∨ (∃ b, i = .expPush b)) ∧
    (t.regs.len ≠ s.regs.len → i = .sysRst ∨ i = .crcInit ∨ (∃ b, i = .crcByte b)) ∧
    (t.regs.status ≠ s.regs.status →
      i = .sysRst ∨ (∃ w, i = .typLds w ∧ alpha w = false) ∨
        (i = .crcChk ∧ s.regs.crc ^^^ 0xFFFFFFFF#32 ≠ s.regs.expect)) ∧
    t.input = s.input ∧ t.taken = s.taken

/-- `LEN` counts the CRC.BYTE commands since the last CRC.INIT or reset, modulo 2^32 (`10_state.md` R18): the count is kept
by every step, whatever the host does. A step in which nothing happens, and a take with nothing outstanding, are the
model's (log entries 4 and 5). -/
def Obligations.LenCountsDataBytes : Prop :=
  ∀ (s : State) (n : Nat), s.tracksCount n → ∃ t, step s = .next t ∧
    match s.nextEvent with
    | none => t.tracksCount n
    | some (.take, _) => t.tracksCount n
    | some (.reset, _) => t.tracksCount 0
    | some (.command cmd, _) =>
      match decode cmd with
      | .ok i => t.tracksCount (countAfter n i)
      | .error _ => t.tracksCount n

/-- Wire order (`00_scope.md` R9): byte `k` of a word is `W[31 - 8k : 24 - 8k]`, and `word` is its inverse. -/
def Obligations.WireOrderOfAWord : Prop :=
  (∀ W : Word, byteOf W 0#2 = W.extractLsb' 24 8 ∧ byteOf W 1#2 = W.extractLsb' 16 8 ∧
    byteOf W 2#2 = W.extractLsb' 8 8 ∧ byteOf W 3#2 = W.extractLsb' 0 8) ∧
  (∀ b0 b1 b2 b3 : Byte,
    (wordOf b0 b1 b2 b3).toNat = b0.toNat * 2 ^ 24 + b1.toNat * 2 ^ 16 + b2.toNat * 2 ^ 8 + b3.toNat) ∧
  (∀ b0 b1 b2 b3 : Byte, wireBytes (wordOf b0 b1 b2 b3) = [b0, b1, b2, b3]) ∧
  (∀ W : Word, wordOf (byteOf W 0#2) (byteOf W 1#2) (byteOf W 2#2) (byteOf W 3#2) = W)

/-! ## Encoding -/

/-- Every command decodes back from its encoded word, with every operand at every value (`30_encoding.md` R41 to R43). -/
def Obligations.DecodeOfEncodeIsTheCommand : Prop :=
  ∀ i : Instr, i.wellFormed = true → decode (encode i) = .ok i

/-- No bit of an accepted word is dropped: encoding what a word decodes to gives the word back (`30_encoding.md` R41,
R43: the masks make the reserved bits part of the match). -/
def Obligations.EncodeOfDecodeIsTheWord : Prop :=
  ∀ (cmd : CmdWord) (i : Instr), decode cmd = .ok i → encode i = cmd ∧ i.wellFormed = true

/-- The complete command set is the 18 rows (`30_encoding.md` R43): a word decodes to a command exactly when it matches the
row with that command's mnemonic, and no word matches two rows. -/
def Obligations.DecodingIsMatchingARow : Prop :=
  opcodeTable.length = 18 ∧
  (∀ (cmd : CmdWord) (i : Instr), decode cmd = .ok i →
    ∃ row ∈ opcodeTable, row.mnemonic = i.mnemonic ∧ cmd &&& row.mask = row.pattern) ∧
  (∀ (cmd : CmdWord), ∀ row ∈ opcodeTable, cmd &&& row.mask = row.pattern →
    ∃ i, decode cmd = .ok i ∧ i.mnemonic = row.mnemonic) ∧
  (∀ (cmd : CmdWord), ∀ row ∈ opcodeTable, ∀ row' ∈ opcodeTable,
    cmd &&& row.mask = row.pattern → cmd &&& row'.mask = row'.pattern → row = row')

/-- Decoding is total (`30_encoding.md` R44): a word of one of the four classes (a) to (d) raises IllegalCommand with its
opcode and changes nothing else; every other word decodes, and the step executes that command. -/
def Obligations.IllegalWordsAreTheFourClasses : Prop :=
  ∀ (s : State) (cmd : CmdWord) (rest : List PortEvent), s.input = .command cmd :: rest → s.rsp = none →
    let op := (cmdOp cmd).toNat
    let imm := cmdImm cmd
    let classA : Prop := op = 0x00 ∨ (0x03 ≤ op ∧ op ≤ 0x0F) ∨ (0x16 ≤ op ∧ op ≤ 0x1F) ∨ op = 0x26 ∨ op = 0x27 ∨
      (0x2C ≤ op ∧ op ≤ 0xFF)
    let classB : Prop := op ∈ [0x01, 0x02, 0x13, 0x14, 0x20, 0x22, 0x23, 0x25, 0x2A, 0x2B] ∧ imm ≠ 0#32
    let classC : Prop := op ∈ [0x12, 0x21, 0x29] ∧ imm.extractLsb' 8 24 ≠ 0#24
    let classD : Prop := op = 0x24 ∧ imm.extractLsb' 2 30 ≠ 0#30
    ((classA ∨ classB ∨ classC ∨ classD) → ∃ t, step s = .next t ∧
      t.regs = { s.regs with status := { s.regs.status with eill := true } } ∧
      t.rsp = some ⟨.illegalCommand, (cmdOp cmd).setWidth 32⟩) ∧
    (¬ (classA ∨ classB ∨ classC ∨ classD) → ∃ i t u, decode cmd = .ok i ∧ exec i s = .next t ∧ step s = .next u ∧
      u.regs = t.regs ∧ u.rsp = t.rsp)

/-- Words written out from the encodings of `30_encoding.md` R41, R43 and from the examples of the command rules decode to
the commands they stand for, and words the spec calls illegal do not. -/
def Obligations.WordsOfTheTableDecode : Prop :=
  decode 0x0100000000#40 = .ok .sysRst ∧
  decode 0x1052753554#40 = .ok (.typLd 0x52753554#32) ∧
  decode 0x1152755354#40 = .ok (.typLds 0x52755354#32) ∧
  decode 0x1200000052#40 = .ok (.typPush 0x52#8) ∧
  decode 0x1552755374#40 = .ok (.typEq 0x52755374#32) ∧
  decode 0x2100000068#40 = .ok (.crcByte 0x68#8) ∧
  decode 0x2400000003#40 = .ok (.crcRdb 3#2) ∧
  decode 0x282B0D0AFA#40 = .ok (.expLd 0x2B0D0AFA#32) ∧
  decode 0x29000000FA#40 = .ok (.expPush 0xFA#8) ∧
  decode 0x2B00000000#40 = .ok .crcChk ∧
  decode 0x0000000000#40 = .error .unassignedOpcode ∧
  decode 0xFFFFFFFFFF#40 = .error .unassignedOpcode ∧
  decode 0x2000000001#40 = .error .reservedBitsN ∧
  decode 0x2100000100#40 = .error .reservedBitsB ∧
  decode 0x2400000004#40 = .error .reservedBitsK

/-- The pseudo-instructions (`30_encoding.md` R49): each expands to its sequence of commands and nothing more, each expanded
command gives a response of its own, and TYP.BYTES and EXP.BYTES leave what TYP.LD and EXP.LD of the word would. -/
def Obligations.PseudoInstructionsExpand : Prop :=
  (∀ (os : List AsmOperand) (bs : List Byte), os ≠ [] → os.map asmByte = bs.map some →
    assemble (.crcBytes os) = some (bs.map Instr.crcByte) ∧
    ∀ s : State, ∃ t, runInstrs (bs.map Instr.crcByte) s = .next t ∧
      t.responses = s.responses ++ List.replicate os.length ⟨.ok, 0#32⟩) ∧
  (∀ cs : List Char, (∀ c ∈ cs, 0x20 ≤ c.toNat ∧ c.toNat ≤ 0x7E ∧ c ≠ '"') →
    assemble (.crcStr cs) = some (cs.map fun c => .crcByte (BitVec.ofNat 8 c.toNat)) ∧
    ∀ s : State, ∃ t, runInstrs (cs.map fun c => .crcByte (BitVec.ofNat 8 c.toNat)) s = .next t ∧
      t.responses = s.responses ++ List.replicate cs.length ⟨.ok, 0#32⟩) ∧
  (∀ (o0 o1 o2 o3 : AsmOperand) (b0 b1 b2 b3 : Byte),
    asmByte o0 = some b0 → asmByte o1 = some b1 → asmByte o2 = some b2 → asmByte o3 = some b3 →
    assemble (.typBytes o0 o1 o2 o3) = some [.typPush b0, .typPush b1, .typPush b2, .typPush b3] ∧
    assemble (.expBytes o0 o1 o2 o3) = some [.expPush b0, .expPush b1, .expPush b2, .expPush b3]) ∧
  (∀ (s : State) (b0 b1 b2 b3 : Byte),
    (∃ t, runInstrs [.typPush b0, .typPush b1, .typPush b2, .typPush b3] s = .next t ∧
      t.regs = { s.regs with type := wordOf b0 b1 b2 b3 } ∧
      t.responses = s.responses ++ List.replicate 4 ⟨.ok, 0#32⟩) ∧
    (∃ t, runInstrs [.expPush b0, .expPush b1, .expPush b2, .expPush b3] s = .next t ∧
      t.regs = { s.regs with expect := wordOf b0 b1 b2 b3 } ∧
      t.responses = s.responses ++ List.replicate 4 ⟨.ok, 0#32⟩))

/-- The assembler (`30_encoding.md` R48) on statements: it assembles exactly the statements whose operands are in range
and of the form their format asks for, and every word it writes is decoded as the command written: it cannot produce an
illegal word. -/
def Obligations.AssemblerAcceptsExactlyTheOperandsInRange : Prop :=
  (∀ st : AsmStmt, (assemble st).isSome = st.wellFormed) ∧
  (∀ (st : AsmStmt) (is : List Instr), assemble st = some is → ∀ i ∈ is, decode (encode i) = .ok i) ∧
  (∀ (m : Mnemonic) (o : Option AsmOperand) (i : Instr), assemble (.command m o) = some [i] → i.mnemonic = m)

/-! ## The system commands -/

/-- SYS.RST (`42_system.md` R84): all registers take their reset values, response `(0, 0)`; the registers are then those
hardware reset leaves; with a non-zero `imm` the word is an IllegalCommand and resets nothing. -/
def Obligations.SysRstResetsEveryRegister : Prop :=
  encode .sysRst = 0x0100000000#40 ∧ decode 0x0100000000#40 = .ok .sysRst ∧
  (∀ s : State, exec .sysRst s = .next
    { s with
      regs := { type := 0x00000000#32, crc := 0xFFFFFFFF#32, expect := 0x00000000#32, len := 0x00000000#32,
                status := { efmt := false, ecrc := false, eill := false } }
      rsp := some ⟨.ok, 0x00000000#32⟩ }) ∧
  (∀ (s t u v : State) (rest : List PortEvent), exec .sysRst s = .next t → u.input = .reset :: rest →
    step u = .next v → t.regs = v.regs) ∧
  (∀ (s : State) (imm : Word) (rest : List PortEvent), imm ≠ 0#32 → s.input = .command (0x01#8 ++ imm) :: rest →
    s.rsp = none → ∃ t, step s = .next t ∧ t.rsp = some ⟨.illegalCommand, 0x00000001#32⟩ ∧
      t.regs = { s.regs with status := { s.regs.status with eill := true } })

/-- SYS.STAT (`42_system.md` R85): the response is EFMT in bit 0, ECRC in bit 1, EILL in bit 2 and zeros above, and nothing
is cleared. -/
def Obligations.SysStatReadsTheStickyFlags : Prop :=
  encode .sysStat = 0x0200000000#40 ∧ decode 0x0200000000#40 = .ok .sysStat ∧
  (∀ s : State, exec .sysStat s = .next
    { s with rsp := some ⟨.ok, BitVec.ofNat 32 (s.regs.status.efmt.toNat + 2 * s.regs.status.ecrc.toNat
                                                  + 4 * s.regs.status.eill.toNat)⟩ })

/-! ## The chunk-type commands -/

/-- TYP.LD (`40_chunk_type.md` R58): `TYPE <- w`, response `(0, 0)`, for any `w`; nothing else changes; a `w` with a
non-letter byte then shows as ALPHA = 0 and VALID = 0. -/
def Obligations.TypLdStoresAnyWord : Prop :=
  ∀ w : Word, encode (.typLd w) = 0x10#8 ++ w ∧ decode (0x10#8 ++ w : CmdWord) = .ok (.typLd w) ∧
    (∀ s : State, exec (.typLd w) s = .next
      { s with regs := { s.regs with type := w }, rsp := some ⟨.ok, 0x00000000#32⟩ }) ∧
    ((∃ k : ByteIndex, isAlpha (byteOf w k) = false) → ∀ s t : State, exec (.typLd w) s = .next t →
      t.regs.type = w ∧ alpha t.regs.type = false ∧ valid t.regs.type = false)

/-- TYP.LDS (`40_chunk_type.md` R59): `TYPE <- w` iff all four bytes are letters; else FormatError with `TYPE` unchanged,
EFMT set and `w` responded. The reserved bit is not checked. -/
def Obligations.TypLdsStoresFourLettersOrFaults : Prop :=
  ∀ w : Word, encode (.typLds w) = 0x11#8 ++ w ∧ decode (0x11#8 ++ w : CmdWord) = .ok (.typLds w) ∧
    ∀ s : State,
      ((∀ k : ByteIndex, isAlpha (byteOf w k) = true) → exec (.typLds w) s = .next
        { s with regs := { s.regs with type := w }, rsp := some ⟨.ok, 0x00000000#32⟩ }) ∧
      ((∃ k : ByteIndex, isAlpha (byteOf w k) = false) → exec (.typLds w) s = .next
        { s with regs := { s.regs with status := { s.regs.status with efmt := true } }
                 rsp := some ⟨.formatError, w⟩ })

/-- TYP.PUSH (`40_chunk_type.md` R60): `TYPE <- (TYPE << 8) or zext b`, response `(0, 0)`; four pushes leave the word of the
four bytes whatever `TYPE` held before. -/
def Obligations.TypPushShiftsAByteIn : Prop :=
  (∀ b : Byte, encode (.typPush b) = 0x12#8 ++ (0#24 ++ b : Word) ∧
    decode (0x12#8 ++ (0#24 ++ b : Word) : CmdWord) = .ok (.typPush b) ∧
    ∀ s : State, exec (.typPush b) s = .next
      { s with regs := { s.regs with type := (s.regs.type <<< 8) ||| b.setWidth 32 }
               rsp := some ⟨.ok, 0x00000000#32⟩ }) ∧
  (∀ (s : State) (t0 t1 t2 t3 : Byte), ∃ u, runInstrs [.typPush t0, .typPush t1, .typPush t2, .typPush t3] s = .next u ∧
    u.regs = { s.regs with type := wordOf t0 t1 t2 t3 })

/-- TYP.RD (`40_chunk_type.md` R61): the response is `TYPE`, the state is unchanged; after TYP.LD `w` it returns `w`. -/
def Obligations.TypRdReadsTheType : Prop :=
  encode .typRd = 0x1300000000#40 ∧ decode 0x1300000000#40 = .ok .typRd ∧
  (∀ s : State, exec .typRd s = .next { s with rsp := some ⟨.ok, s.regs.type⟩ }) ∧
  (∀ (w : Word) (s t : State), exec (.typLd w) s = .next t → exec .typRd t = .next { t with rsp := some ⟨.ok, w⟩ })

/-- TYP.FLG (`40_chunk_type.md` R62): the response is `FLAGS(TYPE)`, never a fault, the state is unchanged; with the five
examples of the rule. -/
def Obligations.TypFlgReadsTheDecodedFlags : Prop :=
  encode .typFlg = 0x1400000000#40 ∧ decode 0x1400000000#40 = .ok .typFlg ∧
  (∀ s : State, exec .typFlg s = .next { s with rsp := some ⟨.ok, flags s.regs.type⟩ }) ∧
  flags 0x52755354#32 = 0x00000035#32 ∧ flags 0x52755374#32 = 0x0000003D#32 ∧ flags 0x52757374#32 = 0x00000019#32 ∧
  flags 0x52753554#32 = 0x00000001#32 ∧ flags 0x00000000#32 = 0x00000007#32

/-- TYP.EQ (`40_chunk_type.md` R63): the response is 1 if all 32 bits of `TYPE` and `w` agree, else 0; the state is
unchanged. -/
def Obligations.TypEqComparesAllBits : Prop :=
  ∀ w : Word, encode (.typEq w) = 0x15#8 ++ w ∧ decode (0x15#8 ++ w : CmdWord) = .ok (.typEq w) ∧
    ∀ s : State,
      (s.regs.type = w → exec (.typEq w) s = .next { s with rsp := some ⟨.ok, 0x00000001#32⟩ }) ∧
      (s.regs.type ≠ w → exec (.typEq w) s = .next { s with rsp := some ⟨.ok, 0x00000000#32⟩ })

/-! ## The CRC, length and stored-CRC commands -/

/-- CRC.INIT (`41_crc.md` R71): `CRC <- 0xFFFFFFFF`, `LEN <- 0`, response `(0, 0)`; sticky flags, `TYPE` and `EXPECT` stay;
two in a row equal one. -/
def Obligations.CrcInitStartsANewChecksum : Prop :=
  encode .crcInit = 0x2000000000#40 ∧ decode 0x2000000000#40 = .ok .crcInit ∧
  (∀ s : State, exec .crcInit s = .next
    { s with regs := { s.regs with crc := 0xFFFFFFFF#32, len := 0x00000000#32 }
             rsp := some ⟨.ok, 0x00000000#32⟩ }) ∧
  (∀ s t : State, exec .crcInit s = .next t → exec .crcInit t = .next t)

/-- CRC.BYTE (`41_crc.md` R72): `CRC <- crc_byte(CRC, b)`, `LEN <- (LEN + 1) mod 2^32`, response `(0, 0)`, no fault;
`LEN` wraps from 0xFFFFFFFF to 0, and the byte 0x00 is fed like any other (from 0xFFFFFFFF it gives 0x2DFD1072; that it
leaves an accumulator of 0 at 0 is log entry 13). -/
def Obligations.CrcByteFeedsOneByte : Prop :=
  (∀ b : Byte, encode (.crcByte b) = 0x21#8 ++ (0#24 ++ b : Word) ∧
    decode (0x21#8 ++ (0#24 ++ b : Word) : CmdWord) = .ok (.crcByte b) ∧
    ∀ s : State, exec (.crcByte b) s = .next
      { s with regs := { s.regs with crc := crcByte s.regs.crc b
                                     len := BitVec.ofNat 32 ((s.regs.len.toNat + 1) % 2 ^ 32) }
               rsp := some ⟨.ok, 0x00000000#32⟩ }) ∧
  (∀ (b : Byte) (s t : State), s.regs.len = 0xFFFFFFFF#32 → exec (.crcByte b) s = .next t →
    t.regs.len = 0x00000000#32 ∧ t.regs.status = s.regs.status) ∧
  crcByte 0xFFFFFFFF#32 0x00#8 = 0x2DFD1072#32

/-- CRC.TYPE (`41_crc.md` R73): the four bytes of `TYPE`, byte 0 first, are fed; `LEN` and `TYPE` are unchanged; it is the
effect on `CRC` of four CRC.BYTE, whatever the bytes are. -/
def Obligations.CrcTypeFeedsTheFourTypeBytes : Prop :=
  encode .crcType = 0x2200000000#40 ∧ decode 0x2200000000#40 = .ok .crcType ∧
  (∀ s : State, exec .crcType s = .next
    { s with regs := { s.regs with crc := crcBytes s.regs.crc [s.regs.type.extractLsb' 24 8,
                         s.regs.type.extractLsb' 16 8, s.regs.type.extractLsb' 8 8, s.regs.type.extractLsb' 0 8] }
             rsp := some ⟨.ok, 0x00000000#32⟩ }) ∧
  (∀ s t u : State, exec .crcType s = .next t →
    runInstrs (feedBytes (wireBytes s.regs.type)) s = .next u →
    t.regs.crc = u.regs.crc ∧ t.regs.type = u.regs.type ∧ t.regs.expect = u.regs.expect ∧
      t.regs.status = u.regs.status ∧ t.regs.len = s.regs.len)

/-- CRC.RD (`41_crc.md` R74): the response is `CRC xor 0xFFFFFFFF`, and the state is unchanged; with the rule's invariant:
CRC.INIT starts the account of the bytes fed, every command keeps it, and CRC.RD responds the checksum of those bytes. -/
def Obligations.CrcRdReadsTheFinalisedCrc : Prop :=
  encode .crcRd = 0x2300000000#40 ∧ decode 0x2300000000#40 = .ok .crcRd ∧
  (∀ s : State, exec .crcRd s = .next { s with rsp := some ⟨.ok, s.regs.crc ^^^ 0xFFFFFFFF#32⟩ }) ∧
  (∀ s t : State, exec .crcInit s = .next t → t.tracksBytes []) ∧
  (∀ (i : Instr) (s t : State) (fed : List Byte), s.tracksBytes fed → exec i s = .next t →
    t.tracksBytes (fedAfter s.regs.type fed i)) ∧
  (∀ (s : State) (fed : List Byte), s.tracksBytes fed → exec .crcRd s = .next { s with rsp := some ⟨.ok, crc32 fed⟩ })

/-- CRC.RDB (`41_crc.md` R75): the response is byte `k` of the finalised CRC, zero-extended, `k` = 0 the most significant;
the state is unchanged; a word with opcode 0x24 and `imm[31:2]` not 0 never reaches the command. -/
def Obligations.CrcRdbReadsOneByteInWireOrder : Prop :=
  (∀ imm : Word, imm.extractLsb' 2 30 ≠ 0#30 → decode (0x24#8 ++ imm : CmdWord) = .error .reservedBitsK) ∧
  ∀ k : ByteIndex, encode (.crcRdb k) = 0x24#8 ++ (0#30 ++ k : Word) ∧
    decode (0x24#8 ++ (0#30 ++ k : Word) : CmdWord) = .ok (.crcRdb k) ∧
    ∀ s : State, exec (.crcRdb k) s = .next
      { s with rsp := some ⟨.ok, ((s.regs.crc ^^^ 0xFFFFFFFF#32) >>> (24 - 8 * k.toNat)) &&& 0x000000FF#32⟩ }

/-- LEN.RD (`41_crc.md` R76): the response is `LEN`; the state is unchanged. -/
def Obligations.LenRdReadsTheCount : Prop :=
  encode .lenRd = 0x2500000000#40 ∧ decode 0x2500000000#40 = .ok .lenRd ∧
  (∀ s : State, exec .lenRd s = .next { s with rsp := some ⟨.ok, s.regs.len⟩ })

/-- EXP.LD (`41_crc.md` R77): `EXPECT <- w`, response `(0, 0)`; nothing else changes and nothing is compared. -/
def Obligations.ExpLdStoresTheNumber : Prop :=
  ∀ w : Word, encode (.expLd w) = 0x28#8 ++ w ∧ decode (0x28#8 ++ w : CmdWord) = .ok (.expLd w) ∧
    ∀ s : State, exec (.expLd w) s = .next
      { s with regs := { s.regs with expect := w }, rsp := some ⟨.ok, 0x00000000#32⟩ }

/-- EXP.PUSH (`41_crc.md` R78): `EXPECT <- (EXPECT << 8) or zext b`, response `(0, 0)`; four pushes leave the big-endian
number of the four bytes whatever `EXPECT` held before. -/
def Obligations.ExpPushShiftsAByteIn : Prop :=
  (∀ b : Byte, encode (.expPush b) = 0x29#8 ++ (0#24 ++ b : Word) ∧
    decode (0x29#8 ++ (0#24 ++ b : Word) : CmdWord) = .ok (.expPush b) ∧
    ∀ s : State, exec (.expPush b) s = .next
      { s with regs := { s.regs with expect := (s.regs.expect <<< 8) ||| b.setWidth 32 }
               rsp := some ⟨.ok, 0x00000000#32⟩ }) ∧
  (∀ (s : State) (e0 e1 e2 e3 : Byte), ∃ u, runInstrs [.expPush e0, .expPush e1, .expPush e2, .expPush e3] s = .next u ∧
    u.regs.expect.toNat = e0.toNat * 2 ^ 24 + e1.toNat * 2 ^ 16 + e2.toNat * 2 ^ 8 + e3.toNat)

/-- EXP.RD (`41_crc.md` R79): the response is `EXPECT`; the state is unchanged. -/
def Obligations.ExpRdReadsTheStoredCrc : Prop :=
  encode .expRd = 0x2A00000000#40 ∧ decode 0x2A00000000#40 = .ok .expRd ∧
  (∀ s : State, exec .expRd s = .next { s with rsp := some ⟨.ok, s.regs.expect⟩ })

/-- CRC.CHK (`41_crc.md` R80): the finalised CRC is responded with code 0 if it is `EXPECT`, else with code 2 and ECRC set;
no other register changes, and a second CRC.CHK answers the same response and state. -/
def Obligations.CrcChkComparesWithTheStoredCrc : Prop :=
  encode .crcChk = 0x2B00000000#40 ∧ decode 0x2B00000000#40 = .ok .crcChk ∧
  (∀ s : State,
    (s.regs.crc ^^^ 0xFFFFFFFF#32 = s.regs.expect →
      exec .crcChk s = .next { s with rsp := some ⟨.ok, s.regs.crc ^^^ 0xFFFFFFFF#32⟩ }) ∧
    (s.regs.crc ^^^ 0xFFFFFFFF#32 ≠ s.regs.expect →
      exec .crcChk s = .next
        { s with regs := { s.regs with status := { s.regs.status with ecrc := true } }
                 rsp := some ⟨.crcMismatchError, s.regs.crc ^^^ 0xFFFFFFFF#32⟩ })) ∧
  (∀ s t : State, exec .crcChk s = .next t → exec .crcChk t = .next t)

/-- The stream's numbers are big-endian (`20_memory.md` R28) in the record of R26: four bytes denote the number with the
first most significant; the fields of a record lie at the offsets of the table, its length field denotes the number of
data bytes, its stored CRC is serialised most significant byte first and is the checksum of type and data; a record is
`12 + length` bytes, and a file is the signature and the records; the record with type "IEND" and no data is the twelve
bytes of the rule's example. -/
def Obligations.StreamNumbersAreBigEndian : Prop :=
  (∀ e0 e1 e2 e3 : Byte,
    (wordOf e0 e1 e2 e3).toNat = e0.toNat * 2 ^ 24 + e1.toNat * 2 ^ 16 + e2.toNat * 2 ^ 8 + e3.toNat) ∧
  (∀ F : Word, wireBytes F = [F.extractLsb' 24 8, F.extractLsb' 16 8, F.extractLsb' 8 8, F.extractLsb' 0 8]) ∧
  (∀ (t : Word) (data : List Byte), data.length < 2 ^ 32 → ∃ n0 n1 n2 n3 : Byte,
    (chunkRecord t data).take 4 = [n0, n1, n2, n3] ∧
    n0.toNat * 2 ^ 24 + n1.toNat * 2 ^ 16 + n2.toNat * 2 ^ 8 + n3.toNat = data.length ∧
    ((chunkRecord t data).drop 4).take 4 = wireBytes t ∧
    ((chunkRecord t data).drop 8).take data.length = data ∧
    (chunkRecord t data).drop (8 + data.length) = wireBytes (crc32 (wireBytes t ++ data)) ∧
    (chunkRecord t data).length = 12 + data.length) ∧
  (∀ (t : Word) (data : List Byte) (crc : Word), (recordBytes t data crc).length = 12 + data.length) ∧
  fileBytes [] = [0x89#8, 0x50#8, 0x4E#8, 0x47#8, 0x0D#8, 0x0A#8, 0x1A#8, 0x0A#8] ∧
  (∀ (chunks : List (Word × List Byte)) (t : Word) (data : List Byte),
    fileBytes (chunks ++ [(t, data)]) = fileBytes chunks ++ chunkRecord t data) ∧
  crc32 (coveredBytes 0x49454E44#32 []) = 0xAE426082#32 ∧
  chunkRecord 0x49454E44#32 [] =
    [0x00#8, 0x00#8, 0x00#8, 0x00#8, 0x49#8, 0x45#8, 0x4E#8, 0x44#8, 0xAE#8, 0x42#8, 0x60#8, 0x82#8]

/-! ## The chunk-type decoder -/

/-- CRIT, PUB, RSVOK, SAFE, is_alpha, ALPHA, VALID (`40_chunk_type.md` R50 to R55), each at the bit or range the rule
gives. -/
def Obligations.DecodedFlagsReadTheirBits : Prop :=
  (∀ t : Word, crit t = !t.getLsbD 29) ∧ (∀ t : Word, pub t = !t.getLsbD 21) ∧
  (∀ t : Word, rsvok t = !t.getLsbD 13) ∧ (∀ t : Word, safe t = t.getLsbD 5) ∧
  (∀ b : Byte, isAlpha b = true ↔ (0x41#8 ≤ b ∧ b ≤ 0x5A#8) ∨ (0x61#8 ≤ b ∧ b ≤ 0x7A#8)) ∧
  (∀ b : Byte, b.getLsbD 7 = true → isAlpha b = false) ∧
  (∀ t : Word, alpha t = true ↔ ∀ k : ByteIndex, isAlpha (byteOf t k) = true) ∧
  (∀ t : Word, valid t = true ↔ alpha t = true ∧ rsvok t = true)

/-- The flags word (`40_chunk_type.md` R57): the arithmetic form, and each field at its bit with zeros above. -/
def Obligations.FlagsWordLayout : Prop :=
  ∀ t : Word,
    (flags t).toNat = (crit t).toNat + 2 * (pub t).toNat + 4 * (rsvok t).toNat + 8 * (safe t).toNat
      + 16 * (alpha t).toNat + 32 * (valid t).toNat ∧
    (flags t).getLsbD 0 = crit t ∧ (flags t).getLsbD 1 = pub t ∧ (flags t).getLsbD 2 = rsvok t ∧
    (flags t).getLsbD 3 = safe t ∧ (flags t).getLsbD 4 = alpha t ∧ (flags t).getLsbD 5 = valid t ∧
    ∀ n, 6 ≤ n → (flags t).getLsbD n = false

/-- The laws (a), (c), (d), (e) of the decoder (`40_chunk_type.md` R64), and of (b) what is true: every bit but bit 5 of
each byte decides ALPHA for some type (log entry 12). -/
def Obligations.DecoderLawsHold : Prop :=
  (∀ (t : Word) (n : Nat), n < 32 →
    (crit (t ^^^ (1#32 <<< n)) = if n = 29 then !crit t else crit t) ∧
    (pub (t ^^^ (1#32 <<< n)) = if n = 21 then !pub t else pub t) ∧
    (rsvok (t ^^^ (1#32 <<< n)) = if n = 13 then !rsvok t else rsvok t) ∧
    (safe (t ^^^ (1#32 <<< n)) = if n = 5 then !safe t else safe t)) ∧
  (∀ n : Nat, n < 32 → n % 8 ≠ 5 → ∃ t : Word, alpha (t ^^^ (1#32 <<< n)) ≠ alpha t) ∧
  (∀ v : Word, (∃ t : Word, flags t = v) ↔ v < 64#32 ∧ v.getLsbD 5 = (v.getLsbD 4 && v.getLsbD 2)) ∧
  (∀ b : Byte, isAlpha b = true →
    (b.getLsbD 5 = false ↔ 0x41#8 ≤ b ∧ b ≤ 0x5A#8) ∧ isAlpha (b ^^^ 0x20#8) = true) ∧
  (∀ (t : Word) (n : Nat), alpha t = true → n ∈ [5, 13, 21, 29] → alpha (t ^^^ (1#32 <<< n)) = true)

/-- Law (b) of `40_chunk_type.md` R64 as it is written, "ALPHA depends on all 32 bits": for each bit some type's ALPHA
changes when that bit is flipped. It is expected to fail: law (e) of the same rule excludes it for bit 5 of each byte
(log entry 12). -/
def Obligations.AlphaDependsOnEveryBit : Prop :=
  ∀ n : Nat, n < 32 → ∃ t : Word, alpha (t ^^^ (1#32 <<< n)) ≠ alpha t

/-- TYP.LDS succeeds iff bit 4 (ALPHA) of the flags word of its operand is 1 (`95_test_vectors.md` section 7,
property 10). -/
def Obligations.TypLdsSucceedsIffTheAlphaFlag : Prop :=
  ∀ (w : Word) (s : State), ∃ t r, exec (.typLds w) s = .next t ∧ t.rsp = some r ∧
    (r.code = .ok ↔ (flags w).getLsbD 4 = true)

/-- The sideband outputs are at all times the bits 0 to 5 of `FLAGS(TYPE)` (`30_encoding.md` R46). -/
def Obligations.SidebandShowsTheFlags : Prop :=
  ∀ s : State, s.sideband = (List.range 6).map fun n => (flags s.regs.type).getLsbD n

/-! ## The checksum -/

/-- The bit step, the byte step, the sequence and the checksum as `41_crc.md` R66 to R69 define them, with the worked example
of R67, step by step, and the reference values of R69. -/
def Obligations.ChecksumReferenceValues : Prop :=
  (∀ c : Word, crcBit c = if c.getLsbD 0 = true then (c >>> 1) ^^^ 0xEDB88320#32 else c >>> 1) ∧
  (∀ (c : Word) (b : Byte), crcByte c b =
    crcBit (crcBit (crcBit (crcBit (crcBit (crcBit (crcBit (crcBit (c ^^^ b.setWidth 32))))))))) ∧
  (∀ c : Word, crcBytes c [] = c) ∧
  (∀ (c : Word) (s0 : Byte) (rest : List Byte), crcBytes c ([s0] ++ rest) = crcBytes (crcByte c s0) rest) ∧
  (∀ s : List Byte, crc32 s = crcBytes 0xFFFFFFFF#32 s ^^^ 0xFFFFFFFF#32) ∧
  (∀ (t : Word) (data : List Byte), coveredBytes t data = wireBytes t ++ data) ∧
  0xFFFFFFFF#32 ^^^ zextByte 0x61#8 = 0xFFFFFF9E#32 ∧
  crcBit 0xFFFFFF9E#32 = 0x7FFFFFCF#32 ∧ crcBit 0x7FFFFFCF#32 = 0xD2477CC7#32 ∧ crcBit 0xD2477CC7#32 = 0x849B3D43#32 ∧
  crcBit 0x849B3D43#32 = 0xAFF51D81#32 ∧ crcBit 0xAFF51D81#32 = 0xBA420DE0#32 ∧ crcBit 0xBA420DE0#32 = 0x5D2106F0#32 ∧
  crcBit 0x5D2106F0#32 = 0x2E908378#32 ∧ crcBit 0x2E908378#32 = 0x174841BC#32 ∧
  crcByte 0xFFFFFFFF#32 0x61#8 = 0x174841BC#32 ∧
  crc32 [] = 0x00000000#32 ∧
  crc32 [0x31#8, 0x32#8, 0x33#8, 0x34#8, 0x35#8, 0x36#8, 0x37#8, 0x38#8, 0x39#8] = 0xCBF43926#32 ∧
  crc32 [0x49#8, 0x45#8, 0x4E#8, 0x44#8] = 0xAE426082#32 ∧
  crc32 ([0x52#8, 0x75#8, 0x53#8, 0x54#8] ++ [0x68#8, 0x65#8, 0x6C#8, 0x6C#8, 0x6F#8]) = 0x2B0D0AFA#32

/-- The table form of the byte step is the byte step (`41_crc.md` R70), with the four entries the rule prints. -/
def Obligations.TableFormIsTheByteStep : Prop :=
  (∀ (c : Word) (b : Byte), crcByte c b = crcTable ((c ^^^ zextByte b).extractLsb' 0 8) ^^^ (c >>> 8)) ∧
  (∀ i : Byte, crcTable i = crcBit (crcBit (crcBit (crcBit (crcBit (crcBit (crcBit (crcBit (i.setWidth 32))))))))) ∧
  crcTable 0#8 = 0x00000000#32 ∧ crcTable 1#8 = 0x77073096#32 ∧ crcTable 128#8 = 0xEDB88320#32 ∧
  crcTable 255#8 = 0x2D02EF8D#32

/-- The checksum of a concatenation (`41_crc.md` R82 (a), (b)) and linearity over xor (R82 (c)). -/
def Obligations.ChecksumIsIncrementalAndLinear : Prop :=
  crc32 [] = 0x00000000#32 ∧
  (∀ (c : Word) (s t : List Byte), crcBytes c (s ++ t) = crcBytes (crcBytes c s) t) ∧
  (∀ c d : Word, crcBit (c ^^^ d) = crcBit c ^^^ crcBit d) ∧
  (∀ (c : Word) (b : Byte), crcByte c b = crcByte (c ^^^ zextByte b) 0x00#8)

/-- The bit step is a bijection, the byte step is a bijection in the accumulator and injective in the byte
(`41_crc.md` R82 (d)). -/
def Obligations.ChecksumStepsAreBijections : Prop :=
  (∀ c : Word, (crcBit c).getLsbD 31 = c.getLsbD 0) ∧
  Function.Bijective crcBit ∧
  (∀ b : Byte, Function.Bijective fun c : Word => crcByte c b) ∧
  (∀ c : Word, Function.Injective fun b : Byte => crcByte c b)

/-- Sensitivity (`41_crc.md` R82 (e)): two byte sequences of one length that differ in exactly one byte have different
checksums. -/
def Obligations.OneByteDifferenceChangesTheChecksum : Prop :=
  ∀ (pre post : List Byte) (b b' : Byte), b ≠ b' → crc32 (pre ++ [b] ++ post) ≠ crc32 (pre ++ [b'] ++ post)

/-- The account of the bytes fed (`41_crc.md` R74) over every step, whatever the host does: if `CRC` is the accumulator of
the bytes fed since the last CRC.INIT or reset, it is that of the new account after the step. A step in which
nothing happens, and a take with nothing outstanding, are the model's (log entries 4 and 5). -/
def Obligations.CrcTracksTheBytesFed : Prop :=
  ∀ (s : State) (fed : List Byte), s.tracksBytes fed → ∃ t, step s = .next t ∧
    match s.nextEvent with
    | none => t.tracksBytes fed
    | some (.take, _) => t.tracksBytes fed
    | some (.reset, _) => t.tracksBytes []
    | some (.command cmd, _) =>
      match decode cmd with
      | .ok i => t.tracksBytes (fedAfter s.regs.type fed i)
      | .error _ => t.tracksBytes fed

/-- Building a chunk, `41_crc.md` R83 (a), from any state: after the type load, CRC.INIT, CRC.TYPE and the data bytes,
CRC.RD responds the checksum of type and data, LEN.RD the length modulo 2^32, and CRC.RDB 0 to 3 the checksum's bytes in
wire order. -/
def Obligations.BuildSequenceComputesTheChecksum : Prop :=
  ∀ (s : State) (t : Word) (load : Instr) (data : List Byte),
    load = .typLd t ∨ (load = .typLds t ∧ alpha t = true) →
    ∃ u, runInstrs (buildSequence load data ++ [.crcRd, .lenRd] ++ readCrcBytes) s = .next u ∧
      u.responses = s.responses ++ List.replicate (3 + data.length) ⟨.ok, 0#32⟩
        ++ [⟨.ok, crc32 (coveredBytes t data)⟩, ⟨.ok, BitVec.ofNat 32 data.length⟩]
        ++ (wireBytes (crc32 (coveredBytes t data))).map (fun e => ⟨.ok, zextByte e⟩) ∧
      u.regs.type = t ∧ u.regs.expect = s.regs.expect ∧ u.regs.status = s.regs.status

/-- Parsing a record, `41_crc.md` R83 (b), from any state: CRC.CHK responds code 0 iff the checksum of type and data is the
number of the four stored bytes, code 2 otherwise, with the checksum as data. -/
def Obligations.ParseSequenceChecksTheRecord : Prop :=
  ∀ (s : State) (t0 t1 t2 t3 e0 e1 e2 e3 : Byte) (data : List Byte),
    ∃ u, runInstrs (parseSequence t0 t1 t2 t3 data e0 e1 e2 e3) s = .next u ∧
      u.regs.type = wordOf t0 t1 t2 t3 ∧ u.regs.expect = wordOf e0 e1 e2 e3 ∧
      u.regs.len = BitVec.ofNat 32 data.length ∧
      (crc32 ([t0, t1, t2, t3] ++ data) = wordOf e0 e1 e2 e3 →
        u.rsp = some ⟨.ok, crc32 ([t0, t1, t2, t3] ++ data)⟩ ∧ u.regs.status = s.regs.status) ∧
      (crc32 ([t0, t1, t2, t3] ++ data) ≠ wordOf e0 e1 e2 e3 →
        u.rsp = some ⟨.crcMismatchError, crc32 ([t0, t1, t2, t3] ++ data)⟩ ∧
        u.regs.status = { s.regs.status with ecrc := true })

/-- "a record serialised by (a) always passes (b)" (`41_crc.md` R83): with either load, whatever bytes CRC.RDB 0 to 3
return after building the chunk, parsing the record with those bytes responds code 0 and raises no flag. -/
def Obligations.SerialisedRecordPassesTheParse : Prop :=
  ∀ (s u : State) (t0 t1 t2 t3 : Byte) (load : Instr) (data : List Byte),
    load = .typLd (wordOf t0 t1 t2 t3) ∨ (load = .typLds (wordOf t0 t1 t2 t3) ∧ alpha (wordOf t0 t1 t2 t3) = true) →
    ∃ (v w : State) (given : List Response) (e0 e1 e2 e3 : Byte),
      runInstrs (buildSequence load data ++ readCrcBytes) s = .next v ∧
      v.responses = s.responses ++ List.replicate (3 + data.length) ⟨.ok, 0#32⟩ ++ given ∧
      given = [⟨.ok, zextByte e0⟩, ⟨.ok, zextByte e1⟩, ⟨.ok, zextByte e2⟩, ⟨.ok, zextByte e3⟩] ∧
      runInstrs (parseSequence t0 t1 t2 t3 data e0 e1 e2 e3) u = .next w ∧
      w.rsp = some ⟨.ok, crc32 ([t0, t1, t2, t3] ++ data)⟩ ∧ w.regs.status = u.regs.status

/-- "flipping any single bit within a chunk's type or data before parsing causes `Chunk::parse` to fail with
CrcMismatchError" (`41_crc.md` R82 (e)), for any change of one covered byte: parsing the changed record against the stored
checksum of the original responds code 2 and sets ECRC. -/
def Obligations.CorruptedByteFailsTheParse : Prop :=
  ∀ (s : State) (t0 t1 t2 t3 : Byte) (data good : List Byte) (pre post : List Byte) (b b' : Byte),
    good = pre ++ [b] ++ post → [t0, t1, t2, t3] ++ data = pre ++ [b'] ++ post → b ≠ b' →
    ∃ u, runInstrs (parseSequence t0 t1 t2 t3 data (byteOf (crc32 good) 0#2) (byteOf (crc32 good) 1#2)
        (byteOf (crc32 good) 2#2) (byteOf (crc32 good) 3#2)) s = .next u ∧
      u.rsp = some ⟨.crcMismatchError, crc32 ([t0, t1, t2, t3] ++ data)⟩ ∧ u.regs.status.ecrc = true

/-! ## Faults -/

/-- The three faults and no others (`60_exceptions.md` R86): who raises each, on what condition, with what data and what
sticky flag, for every accepted word. -/
def Obligations.ThreeFaultsAndTheirCauses : Prop :=
  ∀ (s : State) (cmd : CmdWord) (rest : List PortEvent), s.input = .command cmd :: rest → s.rsp = none →
    ∃ t r, step s = .next t ∧ t.rsp = some r ∧
      (r.code = .formatError ↔ ∃ w, decode cmd = .ok (.typLds w) ∧ alpha w = false) ∧
      (∀ w, decode cmd = .ok (.typLds w) → alpha w = false → r.data = w ∧ t.regs.status.efmt = true) ∧
      (r.code = .crcMismatchError ↔ decode cmd = .ok .crcChk ∧ s.regs.crc ^^^ 0xFFFFFFFF#32 ≠ s.regs.expect) ∧
      (r.code = .crcMismatchError → r.data = s.regs.crc ^^^ 0xFFFFFFFF#32 ∧ t.regs.status.ecrc = true) ∧
      (r.code = .illegalCommand ↔ ∀ row ∈ opcodeTable, cmd &&& row.mask ≠ row.pattern) ∧
      (r.code = .illegalCommand → r.data = (cmdOp cmd).setWidth 32 ∧ t.regs.status.eill = true)

/-- Fault entry (`60_exceptions.md` R93): a response whose code is not 0 comes with its one sticky flag set and every other
flag and register unchanged. -/
def Obligations.FaultChangesOneStickyFlagOnly : Prop :=
  ∀ (s t : State) (r : Response) (cmd : CmdWord) (rest : List PortEvent),
    s.input = .command cmd :: rest → s.rsp = none → step s = .next t → t.rsp = some r → r.code ≠ .ok →
    t.regs.type = s.regs.type ∧ t.regs.crc = s.regs.crc ∧ t.regs.expect = s.regs.expect ∧ t.regs.len = s.regs.len ∧
    t.regs.status.efmt = (s.regs.status.efmt || r.code == .formatError) ∧
    t.regs.status.ecrc = (s.regs.status.ecrc || r.code == .crcMismatchError) ∧
    t.regs.status.eill = (s.regs.status.eill || r.code == .illegalCommand)

/-- The sticky flags are cleared only by SYS.RST and by hardware reset, which also reset every other register
(`60_exceptions.md` R94): a step in which a flag goes from 1 to 0 is one of the two and leaves the reset values. -/
def Obligations.OnlyResetClearsAStickyFlag : Prop :=
  ∀ s t : State, step s = .next t →
    ((s.regs.status.efmt = true ∧ t.regs.status.efmt = false) ∨ (s.regs.status.ecrc = true ∧ t.regs.status.ecrc = false) ∨
      (s.regs.status.eill = true ∧ t.regs.status.eill = false)) →
    ((∃ rest, s.nextEvent = some (.reset, rest)) ∨ (∃ rest, s.nextEvent = some (.command 0x0100000000#40, rest))) ∧
    t.regs = ⟨0x00000000#32, 0xFFFFFFFF#32, 0x00000000#32, 0x00000000#32, ⟨false, false, false⟩⟩

/-- "a sticky flag blocks nothing" (`60_exceptions.md` R95): with any other sticky flags a command has the same effect on
`TYPE`, `CRC`, `EXPECT`, `LEN` and the same response, but for SYS.STAT, which responds the flags. -/
def Obligations.StickyFlagsBlockNothing : Prop :=
  ∀ (i : Instr) (s t : State) (st : Status), exec i s = .next t →
    ∃ t', exec i { s with regs := { s.regs with status := st } } = .next t' ∧
      t'.regs.type = t.regs.type ∧ t'.regs.crc = t.regs.crc ∧ t'.regs.expect = t.regs.expect ∧
      t'.regs.len = t.regs.len ∧ (i ≠ .sysStat → t'.rsp = t.rsp)

/-- Idempotence (`20_memory.md` R32): the eight read commands change no register and repeat their response; a second
CRC.CHK repeats response and state; CRC.BYTE, CRC.TYPE, TYP.PUSH and EXP.PUSH are not idempotent. -/
def Obligations.ReadCommandsChangeNoState : Prop :=
  (∀ (i : Instr) (s : State), isReadCommand i = true →
    ∃ r : Response, r.code = .ok ∧ exec i s = .next { s with rsp := some r } ∧
      exec i { s with rsp := some r } = .next { s with rsp := some r }) ∧
  (∀ s t : State, exec .crcChk s = .next t → exec .crcChk t = .next t) ∧
  (∀ i ∈ [Instr.crcByte 0x61#8, .crcType, .typPush 0x52#8, .expPush 0x2B#8], ∃ s t u : State,
    exec i s = .next t ∧ exec i t = .next u ∧ t.regs ≠ u.regs)

/-- The invariant: a sticky flag that is up has been reported to the host in a response with its code ("no error is
silently swallowed", `10_state.md` R19, `60_exceptions.md` R93). Every step keeps it, from every state that has it. -/
def Obligations.EveryStepKeepsFlagsReported : Prop :=
  ∀ s t : State, s.flagsReported = true → step s = .next t → t.flagsReported = true

/-- The reset state has the invariant that every sticky flag up has been reported. -/
def Obligations.ResetStateHasFlagsReported : Prop :=
  State.reset.flagsReported = true ∧ State.reset.clean = true
end

