-- ==== Sys2Proof/Laws/Encoding.lean ====
section
/-! SUPPORT. The command word's two fields, what each format accepts, and that a command's operand is in range. -/

namespace Sys2Proof

@[simp] theorem cmdOp_mkCmd (op : Byte) (imm : Word) : cmdOp (mkCmd op imm) = op :=
  BitVec.extractLsb'_append_eq_left

@[simp] theorem cmdImm_mkCmd (op : Byte) (imm : Word) : cmdImm (mkCmd op imm) = imm :=
  BitVec.extractLsb'_append_eq_right

/-- A command word is its two fields (R40). -/
theorem mkCmd_cmdOp_cmdImm (cmd : CmdWord) : mkCmd (cmdOp cmd) (cmdImm cmd) = cmd := by
  apply BitVec.eq_of_getLsbD_eq
  intro i hi
  simp only [mkCmd, cmdOp, cmdImm, BitVec.getLsbD_append, BitVec.getLsbD_extractLsb']
  by_cases h : i < 32
  · simp [h]
  · have h8 : i - 32 < 8 := by omega
    have h32 : 32 + (i - 32) = i := by omega
    simp [h, h8, h32]

/-- Two words are equal when both fields are. -/
theorem mkCmd_inj {op op' : Byte} {imm imm' : Word} (h : mkCmd op imm = mkCmd op' imm') : op = op' ∧ imm = imm' :=
  ⟨by simpa using congrArg cmdOp h, by simpa using congrArg cmdImm h⟩

/-- Masking works field by field (R43). -/
theorem mkCmd_and (op m : Byte) (imm n : Word) : mkCmd op imm &&& mkCmd m n = mkCmd (op &&& m) (imm &&& n) :=
  BitVec.and_append

theorem formatN_zero (i : Instr) : formatN i 0#32 = .ok i := rfl

theorem formatB_operand (f : Byte → Instr) (b : Byte) : formatB f (0#24 ++ b : Word) = .ok (f b) := by
  have h1 : (0#24 ++ b : Word).extractLsb' 8 24 = 0#24 := BitVec.extractLsb'_append_eq_left
  have h2 : (0#24 ++ b : Word).extractLsb' 0 8 = b := BitVec.extractLsb'_append_eq_right
  simp [formatB, h1, h2]

theorem formatK_operand (f : ByteIndex → Instr) (k : ByteIndex) : formatK f (0#30 ++ k : Word) = .ok (f k) := by
  have h1 : (0#30 ++ k : Word).extractLsb' 2 30 = 0#30 := BitVec.extractLsb'_append_eq_left
  have h2 : (0#30 ++ k : Word).extractLsb' 0 2 = k := BitVec.extractLsb'_append_eq_right
  simp [formatK, h1, h2]

/-- What format N accepts, said once (R41). -/
theorem formatN_ok {i j : Instr} {imm : Word} (h : formatN i imm = .ok j) : imm = 0#32 ∧ j = i := by
  unfold formatN at h
  split at h
  · exact ⟨‹_›, by cases h; rfl⟩
  · cases h

/-- What format B accepts, said once (R41). -/
theorem formatB_ok {f : Byte → Instr} {j : Instr} {imm : Word} (h : formatB f imm = .ok j) :
    imm.extractLsb' 8 24 = 0#24 ∧ j = f (imm.extractLsb' 0 8) := by
  unfold formatB at h
  split at h
  · exact ⟨‹_›, by cases h; rfl⟩
  · cases h

/-- What format K accepts, said once (R41). -/
theorem formatK_ok {f : ByteIndex → Instr} {j : Instr} {imm : Word} (h : formatK f imm = .ok j) :
    imm.extractLsb' 2 30 = 0#30 ∧ j = f (imm.extractLsb' 0 2) := by
  unfold formatK at h
  split at h
  · exact ⟨‹_›, by cases h; rfl⟩
  · cases h

/-- What format W accepts: every word (R44). -/
theorem formatW_ok {f : Word → Instr} {j : Instr} {imm : Word} (h : formatW f imm = .ok j) : j = f imm := by
  cases h; rfl

/-- Every command has its operand in range: the type of the operand is its field. -/
theorem Instr.wellFormed_true (i : Instr) : i.wellFormed = true := by
  cases i <;> simp only [Instr.wellFormed, decide_eq_true_eq] <;> exact BitVec.isLt _

end Sys2Proof
end

