-- ==== Sys2Proof/Laws/State.lean ====
section
/-! SUPPORT. One lemma per field per update of the state, true by `rfl`, so that no proof unfolds a record update. -/

namespace Sys2Proof.Machine

-- setType
@[simp] theorem State.setType_regs_type (s : State) (v : Word) : (s.setType v).regs.type = v := rfl
@[simp] theorem State.setType_regs_crc (s : State) (v : Word) : (s.setType v).regs.crc = s.regs.crc := rfl
@[simp] theorem State.setType_regs_expect (s : State) (v : Word) : (s.setType v).regs.expect = s.regs.expect := rfl
@[simp] theorem State.setType_regs_len (s : State) (v : Word) : (s.setType v).regs.len = s.regs.len := rfl
@[simp] theorem State.setType_regs_status (s : State) (v : Word) : (s.setType v).regs.status = s.regs.status := rfl
@[simp] theorem State.setType_input (s : State) (v : Word) : (s.setType v).input = s.input := rfl
@[simp] theorem State.setType_rsp (s : State) (v : Word) : (s.setType v).rsp = s.rsp := rfl
@[simp] theorem State.setType_taken (s : State) (v : Word) : (s.setType v).taken = s.taken := rfl

-- setCrc
@[simp] theorem State.setCrc_regs_type (s : State) (v : Word) : (s.setCrc v).regs.type = s.regs.type := rfl
@[simp] theorem State.setCrc_regs_crc (s : State) (v : Word) : (s.setCrc v).regs.crc = v := rfl
@[simp] theorem State.setCrc_regs_expect (s : State) (v : Word) : (s.setCrc v).regs.expect = s.regs.expect := rfl
@[simp] theorem State.setCrc_regs_len (s : State) (v : Word) : (s.setCrc v).regs.len = s.regs.len := rfl
@[simp] theorem State.setCrc_regs_status (s : State) (v : Word) : (s.setCrc v).regs.status = s.regs.status := rfl
@[simp] theorem State.setCrc_input (s : State) (v : Word) : (s.setCrc v).input = s.input := rfl
@[simp] theorem State.setCrc_rsp (s : State) (v : Word) : (s.setCrc v).rsp = s.rsp := rfl
@[simp] theorem State.setCrc_taken (s : State) (v : Word) : (s.setCrc v).taken = s.taken := rfl

-- setExpect
@[simp] theorem State.setExpect_regs_type (s : State) (v : Word) : (s.setExpect v).regs.type = s.regs.type := rfl
@[simp] theorem State.setExpect_regs_crc (s : State) (v : Word) : (s.setExpect v).regs.crc = s.regs.crc := rfl
@[simp] theorem State.setExpect_regs_expect (s : State) (v : Word) : (s.setExpect v).regs.expect = v := rfl
@[simp] theorem State.setExpect_regs_len (s : State) (v : Word) : (s.setExpect v).regs.len = s.regs.len := rfl
@[simp] theorem State.setExpect_regs_status (s : State) (v : Word) : (s.setExpect v).regs.status = s.regs.status := rfl
@[simp] theorem State.setExpect_input (s : State) (v : Word) : (s.setExpect v).input = s.input := rfl
@[simp] theorem State.setExpect_rsp (s : State) (v : Word) : (s.setExpect v).rsp = s.rsp := rfl
@[simp] theorem State.setExpect_taken (s : State) (v : Word) : (s.setExpect v).taken = s.taken := rfl

-- setLen
@[simp] theorem State.setLen_regs_type (s : State) (v : Word) : (s.setLen v).regs.type = s.regs.type := rfl
@[simp] theorem State.setLen_regs_crc (s : State) (v : Word) : (s.setLen v).regs.crc = s.regs.crc := rfl
@[simp] theorem State.setLen_regs_expect (s : State) (v : Word) : (s.setLen v).regs.expect = s.regs.expect := rfl
@[simp] theorem State.setLen_regs_len (s : State) (v : Word) : (s.setLen v).regs.len = v := rfl
@[simp] theorem State.setLen_regs_status (s : State) (v : Word) : (s.setLen v).regs.status = s.regs.status := rfl
@[simp] theorem State.setLen_input (s : State) (v : Word) : (s.setLen v).input = s.input := rfl
@[simp] theorem State.setLen_rsp (s : State) (v : Word) : (s.setLen v).rsp = s.rsp := rfl
@[simp] theorem State.setLen_taken (s : State) (v : Word) : (s.setLen v).taken = s.taken := rfl

-- setStatus
@[simp] theorem State.setStatus_regs_type (s : State) (v : Status) : (s.setStatus v).regs.type = s.regs.type := rfl
@[simp] theorem State.setStatus_regs_crc (s : State) (v : Status) : (s.setStatus v).regs.crc = s.regs.crc := rfl
@[simp] theorem State.setStatus_regs_expect (s : State) (v : Status) : (s.setStatus v).regs.expect = s.regs.expect := rfl
@[simp] theorem State.setStatus_regs_len (s : State) (v : Status) : (s.setStatus v).regs.len = s.regs.len := rfl
@[simp] theorem State.setStatus_regs_status (s : State) (v : Status) : (s.setStatus v).regs.status = v := rfl
@[simp] theorem State.setStatus_input (s : State) (v : Status) : (s.setStatus v).input = s.input := rfl
@[simp] theorem State.setStatus_rsp (s : State) (v : Status) : (s.setStatus v).rsp = s.rsp := rfl
@[simp] theorem State.setStatus_taken (s : State) (v : Status) : (s.setStatus v).taken = s.taken := rfl

-- resetRegs
@[simp] theorem State.resetRegs_regs_type (s : State) : (s.resetRegs).regs.type = 0x00000000#32 := rfl
@[simp] theorem State.resetRegs_regs_crc (s : State) : (s.resetRegs).regs.crc = 0xFFFFFFFF#32 := rfl
@[simp] theorem State.resetRegs_regs_expect (s : State) : (s.resetRegs).regs.expect = 0x00000000#32 := rfl
@[simp] theorem State.resetRegs_regs_len (s : State) : (s.resetRegs).regs.len = 0x00000000#32 := rfl
@[simp] theorem State.resetRegs_regs_status (s : State) : (s.resetRegs).regs.status = Status.clear := rfl
@[simp] theorem State.resetRegs_input (s : State) : (s.resetRegs).input = s.input := rfl
@[simp] theorem State.resetRegs_rsp (s : State) : (s.resetRegs).rsp = s.rsp := rfl
@[simp] theorem State.resetRegs_taken (s : State) : (s.resetRegs).taken = s.taken := rfl

-- respond
@[simp] theorem State.respond_regs_type (s : State) (c : RspCode) (d : Word) : (s.respond c d).regs.type = s.regs.type := rfl
@[simp] theorem State.respond_regs_crc (s : State) (c : RspCode) (d : Word) : (s.respond c d).regs.crc = s.regs.crc := rfl
@[simp] theorem State.respond_regs_expect (s : State) (c : RspCode) (d : Word) : (s.respond c d).regs.expect = s.regs.expect := rfl
@[simp] theorem State.respond_regs_len (s : State) (c : RspCode) (d : Word) : (s.respond c d).regs.len = s.regs.len := rfl
@[simp] theorem State.respond_regs_status (s : State) (c : RspCode) (d : Word) : (s.respond c d).regs.status = s.regs.status := rfl
@[simp] theorem State.respond_input (s : State) (c : RspCode) (d : Word) : (s.respond c d).input = s.input := rfl
@[simp] theorem State.respond_rsp (s : State) (c : RspCode) (d : Word) : (s.respond c d).rsp = some ⟨c, d⟩ := rfl
@[simp] theorem State.respond_taken (s : State) (c : RspCode) (d : Word) : (s.respond c d).taken = s.taken := rfl

-- raise
@[simp] theorem State.raise_regs_type (s : State) (c : RspCode) (d : Word) : (s.raise c d).regs.type = s.regs.type := rfl
@[simp] theorem State.raise_regs_crc (s : State) (c : RspCode) (d : Word) : (s.raise c d).regs.crc = s.regs.crc := rfl
@[simp] theorem State.raise_regs_expect (s : State) (c : RspCode) (d : Word) : (s.raise c d).regs.expect = s.regs.expect := rfl
@[simp] theorem State.raise_regs_len (s : State) (c : RspCode) (d : Word) : (s.raise c d).regs.len = s.regs.len := rfl
@[simp] theorem State.raise_regs_status (s : State) (c : RspCode) (d : Word) : (s.raise c d).regs.status = s.regs.status.raise c := rfl
@[simp] theorem State.raise_input (s : State) (c : RspCode) (d : Word) : (s.raise c d).input = s.input := rfl
@[simp] theorem State.raise_rsp (s : State) (c : RspCode) (d : Word) : (s.raise c d).rsp = some ⟨c, d⟩ := rfl
@[simp] theorem State.raise_taken (s : State) (c : RspCode) (d : Word) : (s.raise c d).taken = s.taken := rfl

-- takeResponse
@[simp] theorem State.takeResponse_regs_type (s : State) : (s.takeResponse).regs.type = s.regs.type := rfl
@[simp] theorem State.takeResponse_regs_crc (s : State) : (s.takeResponse).regs.crc = s.regs.crc := rfl
@[simp] theorem State.takeResponse_regs_expect (s : State) : (s.takeResponse).regs.expect = s.regs.expect := rfl
@[simp] theorem State.takeResponse_regs_len (s : State) : (s.takeResponse).regs.len = s.regs.len := rfl
@[simp] theorem State.takeResponse_regs_status (s : State) : (s.takeResponse).regs.status = s.regs.status := rfl
@[simp] theorem State.takeResponse_input (s : State) : (s.takeResponse).input = s.input := rfl
@[simp] theorem State.takeResponse_rsp (s : State) : (s.takeResponse).rsp = none := rfl
@[simp] theorem State.takeResponse_taken (s : State) : (s.takeResponse).taken = s.taken ++ s.rsp.toList := rfl

-- hardReset
@[simp] theorem State.hardReset_regs_type (s : State) : (s.hardReset).regs.type = 0x00000000#32 := rfl
@[simp] theorem State.hardReset_regs_crc (s : State) : (s.hardReset).regs.crc = 0xFFFFFFFF#32 := rfl
@[simp] theorem State.hardReset_regs_expect (s : State) : (s.hardReset).regs.expect = 0x00000000#32 := rfl
@[simp] theorem State.hardReset_regs_len (s : State) : (s.hardReset).regs.len = 0x00000000#32 := rfl
@[simp] theorem State.hardReset_regs_status (s : State) : (s.hardReset).regs.status = Status.clear := rfl
@[simp] theorem State.hardReset_input (s : State) : (s.hardReset).input = s.input := rfl
@[simp] theorem State.hardReset_rsp (s : State) : (s.hardReset).rsp = none := rfl
@[simp] theorem State.hardReset_taken (s : State) : (s.hardReset).taken = s.taken := rfl

-- present
@[simp] theorem State.present_regs_type (s : State) (w : CmdWord) : (s.present w).regs.type = s.regs.type := rfl
@[simp] theorem State.present_regs_crc (s : State) (w : CmdWord) : (s.present w).regs.crc = s.regs.crc := rfl
@[simp] theorem State.present_regs_expect (s : State) (w : CmdWord) : (s.present w).regs.expect = s.regs.expect := rfl
@[simp] theorem State.present_regs_len (s : State) (w : CmdWord) : (s.present w).regs.len = s.regs.len := rfl
@[simp] theorem State.present_regs_status (s : State) (w : CmdWord) : (s.present w).regs.status = s.regs.status := rfl
@[simp] theorem State.present_input (s : State) (w : CmdWord) : (s.present w).input = .command w :: s.input := rfl
@[simp] theorem State.present_rsp (s : State) (w : CmdWord) : (s.present w).rsp = s.rsp := rfl
@[simp] theorem State.present_taken (s : State) (w : CmdWord) : (s.present w).taken = s.taken := rfl

@[simp] theorem State.respond_regs (s : State) (c : RspCode) (d : Word) : (s.respond c d).regs = s.regs := rfl
@[simp] theorem State.takeResponse_regs (s : State) : (s.takeResponse).regs = s.regs := rfl
@[simp] theorem State.present_regs (s : State) (w : CmdWord) : (s.present w).regs = s.regs := rfl
@[simp] theorem State.resetRegs_regs (s : State) : (s.resetRegs).regs = Regs.reset := rfl
@[simp] theorem State.hardReset_regs (s : State) : (s.hardReset).regs = Regs.reset := rfl

-- Status.raise: the one flag of each fault (R86)
@[simp] theorem Status.raise_formatError_efmt (st : Status) : (st.raise .formatError).efmt = true := rfl
@[simp] theorem Status.raise_formatError_ecrc (st : Status) : (st.raise .formatError).ecrc = st.ecrc := rfl
@[simp] theorem Status.raise_formatError_eill (st : Status) : (st.raise .formatError).eill = st.eill := rfl
@[simp] theorem Status.raise_crcMismatchError_efmt (st : Status) : (st.raise .crcMismatchError).efmt = st.efmt := rfl
@[simp] theorem Status.raise_crcMismatchError_ecrc (st : Status) : (st.raise .crcMismatchError).ecrc = true := rfl
@[simp] theorem Status.raise_crcMismatchError_eill (st : Status) : (st.raise .crcMismatchError).eill = st.eill := rfl
@[simp] theorem Status.raise_illegalCommand_efmt (st : Status) : (st.raise .illegalCommand).efmt = st.efmt := rfl
@[simp] theorem Status.raise_illegalCommand_ecrc (st : Status) : (st.raise .illegalCommand).ecrc = st.ecrc := rfl
@[simp] theorem Status.raise_illegalCommand_eill (st : Status) : (st.raise .illegalCommand).eill = true := rfl
@[simp] theorem Status.raise_ok (st : Status) : st.raise .ok = st := rfl

end Sys2Proof.Machine
end

