-- ==== Sys2Proof/Laws/Ops.lean ====
section
/-! SUPPORT. For each shared operation, one lemma that says everything it can do. -/

namespace Sys2Proof.Machine

/-- Everything taking a fault does: one sticky flag and the response (R93). -/
theorem State.raise_eq (s : State) (c : RspCode) (d : Word) :
    s.raise c d = { s with regs := { s.regs with status := s.regs.status.raise c }, rsp := some ⟨c, d⟩ } := rfl

/-- Taking loses no response. -/
@[simp] theorem State.takeResponse_responses (s : State) : s.takeResponse.responses = s.responses := by
  simp [State.responses]

/-- Raising never lowers a flag (R93). -/
theorem Status.raise_keeps (st : Status) (c : RspCode) :
    (st.efmt = true → (st.raise c).efmt = true) ∧ (st.ecrc = true → (st.raise c).ecrc = true)
      ∧ (st.eill = true → (st.raise c).eill = true) := by
  cases c <;> simp [Status.raise]

/-- What running a command word is, by its decoding (R44). -/
theorem runCommand_cases (cmd : CmdWord) (s : State) :
    (∃ i, decode cmd = .ok i ∧ runCommand cmd s = exec i s) ∨
    (∃ e, decode cmd = .error e ∧ runCommand cmd s = .next (s.raise .illegalCommand (zextByte (cmdOp cmd)))) := by
  unfold runCommand
  cases h : decode cmd with
  | ok i => exact .inl ⟨i, rfl, rfl⟩
  | error e => exact .inr ⟨e, rfl, rfl⟩

/-- A presented command is accepted when no response is outstanding (R46). -/
theorem State.nextEvent_ready {s : State} {cmd : CmdWord} {rest : List PortEvent} (h : s.input = .command cmd :: rest)
    (hr : s.rsp = none) : s.nextEvent = some (.command cmd, rest) := by
  simp [State.nextEvent, h, State.cmdReady, hr]

/-- While a response is outstanding a presented command is held (R46). -/
theorem State.nextEvent_held {s : State} {cmd : CmdWord} {rest : List PortEvent} (h : s.input = .command cmd :: rest)
    (hr : s.rsp ≠ none) : s.nextEvent = whileHeld cmd rest := by
  simp [State.nextEvent, h, State.cmdReady, Option.isNone_iff_eq_none, hr]

/-- Taking and reset happen when they are next (R46, R106). -/
theorem State.nextEvent_take {s : State} {rest : List PortEvent} (h : s.input = .take :: rest) :
    s.nextEvent = some (.take, rest) := by
  simp [State.nextEvent, h]

theorem State.nextEvent_reset {s : State} {rest : List PortEvent} (h : s.input = .reset :: rest) :
    s.nextEvent = some (.reset, rest) := by
  simp [State.nextEvent, h]

/-- Only a presented command is accepted, and only with no response outstanding (R46). -/
theorem State.nextEvent_command {s : State} {cmd : CmdWord} {rest : List PortEvent}
    (h : s.nextEvent = some (.command cmd, rest)) : s.input = .command cmd :: rest ∧ s.rsp = none := by
  unfold State.nextEvent at h
  split at h
  · cases h
  · next c r hi =>
    split at h
    · next hc => cases h; exact ⟨hi, by simpa [State.cmdReady] using hc⟩
    · unfold whileHeld at h; split at h <;> cases h
  · cases h
  · cases h

/-- What one step is, by the next event at the ports. -/
theorem step_cases (s : State) :
    (s.nextEvent = none ∧ step s = .next s) ∨
    (∃ cmd rest, s.nextEvent = some (.command cmd, rest) ∧ s.input = .command cmd :: rest ∧ s.rsp = none ∧
      step s = runCommand cmd { s with input := rest }) ∨
    (∃ rest, s.nextEvent = some (.take, rest) ∧ step s = .next { s.takeResponse with input := rest }) ∨
    (∃ rest, s.nextEvent = some (.reset, rest) ∧ step s = .next { s.hardReset with input := rest }) := by
  unfold step portStep
  cases h : s.nextEvent with
  | none => exact .inl ⟨rfl, rfl⟩
  | some e =>
    obtain ⟨ev, rest⟩ := e
    cases ev with
    | command cmd =>
      obtain ⟨hi, hr⟩ := State.nextEvent_command h
      exact .inr (.inl ⟨cmd, rest, rfl, hi, hr, rfl⟩)
    | take => exact .inr (.inr (.inl ⟨rest, rfl, rfl⟩))
    | reset => exact .inr (.inr (.inr ⟨rest, rfl, rfl⟩))

/-- An accepted command: the step runs its word (R44, R46). -/
theorem step_ready {s : State} {cmd : CmdWord} {rest : List PortEvent} (h : s.input = .command cmd :: rest)
    (hr : s.rsp = none) : step s = runCommand cmd { s with input := rest } := by
  simp [step, portStep, State.nextEvent_ready h hr]

/-- The step at each next event but an accepted command. -/
theorem step_waits {s : State} (h : s.nextEvent = none) : step s = .next s := by
  simp [step, portStep, h]

theorem step_takes {s : State} {rest : List PortEvent} (h : s.nextEvent = some (.take, rest)) :
    step s = .next { s.takeResponse with input := rest } := by
  simp [step, portStep, h]

theorem step_resets {s : State} {rest : List PortEvent} (h : s.nextEvent = some (.reset, rest)) :
    step s = .next { s.hardReset with input := rest } := by
  simp [step, portStep, h]

/-- Steps chain: a run of `m + n` steps is a run of `n` after a run of `m`. -/
theorem steps_add {m n : Nat} {s t : State} (h : steps m s = .next t) : steps (m + n) s = steps n t := by
  induction m generalizing s with
  | zero => cases h; simp
  | succ m ih =>
    have hm : m + 1 + n = (m + n) + 1 := by omega
    rw [hm]
    simp only [steps] at h ⊢
    cases hs : step s with
    | next u => rw [hs] at h; exact ih h
    | fault r => rw [hs] at h; cases h
    | refused r => rw [hs] at h; cases h

end Sys2Proof.Machine
end

