-- ==== Sys2Proof/Laws/PerInstr.lean ====
section
/-! SUPPORT. Statements about every instruction, one lemma per constructor: the family `EncodedWordMatchesRow` says that
the encoded word of a command matches the row of R43 that has the command's mnemonic. -/

namespace Sys2Proof.Laws.EncodedWordMatchesRow

/-- The word of `i` matches its own row: `(cmd and mask) = match` (R43). -/
def Statement (i : Instr) : Prop :=
  ∃ row ∈ opcodeTable, row.mnemonic = i.mnemonic ∧ row.matches (encode i) = true

/-- Format N: the word is the row's `match` itself. -/
theorem of_closed {i : Instr} (row : OpcodeRow) (hr : row ∈ opcodeTable) (hm : row.mnemonic = i.mnemonic)
    (h : row.matches (encode i) = true) : Statement i := ⟨row, hr, hm, h⟩

/-- A row whose mask and match are given by fields is matched by the field-wise comparison. -/
theorem matches_of_fields (row : OpcodeRow) (op m p : Byte) (imm n q : Word) (hmask : row.mask = mkCmd m n)
    (hpat : row.pattern = mkCmd p q) (hop : op &&& m = p) (himm : imm &&& n = q) :
    row.matches (mkCmd op imm) = true := by
  simp [OpcodeRow.matches, hmask, hpat, mkCmd_and, hop, himm]

theorem maskB (b : Byte) : (0#24 ++ b : Word) &&& 0xFFFFFF00#32 = 0#32 := by
  have h : (0xFFFFFF00#32 : Word) = 0xFFFFFF#24 ++ 0x00#8 := by decide
  rw [h, BitVec.and_append]; simp

theorem maskK (k : ByteIndex) : (0#30 ++ k : Word) &&& 0xFFFFFFFC#32 = 0#32 := by
  have h : (0xFFFFFFFC#32 : Word) = 0x3FFFFFFF#30 ++ 0x0#2 := by decide
  rw [h, BitVec.and_append]; simp

theorem maskW (w : Word) : w &&& 0x00000000#32 = 0#32 := by simp

theorem sysRst : Statement .sysRst := of_closed ⟨.sysRst, 0x01#8, .n, 0x0100000000#40, 0xFFFFFFFFFF#40⟩ (by decide) rfl (by decide)
theorem sysStat : Statement .sysStat := of_closed ⟨.sysStat, 0x02#8, .n, 0x0200000000#40, 0xFFFFFFFFFF#40⟩ (by decide) rfl (by decide)
theorem typLd (w : Word) : Statement (.typLd w) :=
  ⟨⟨.typLd, 0x10#8, .w, 0x1000000000#40, 0xFF00000000#40⟩, by decide, rfl,
    matches_of_fields _ _ 0xFF#8 0x10#8 _ 0#32 0#32 (by decide) (by decide) (by decide) (maskW w)⟩
theorem typLds (w : Word) : Statement (.typLds w) :=
  ⟨⟨.typLds, 0x11#8, .w, 0x1100000000#40, 0xFF00000000#40⟩, by decide, rfl,
    matches_of_fields _ _ 0xFF#8 0x11#8 _ 0#32 0#32 (by decide) (by decide) (by decide) (maskW w)⟩
theorem typPush (b : Byte) : Statement (.typPush b) :=
  ⟨⟨.typPush, 0x12#8, .b, 0x1200000000#40, 0xFFFFFFFF00#40⟩, by decide, rfl,
    matches_of_fields _ _ 0xFF#8 0x12#8 _ 0xFFFFFF00#32 0#32 (by decide) (by decide) (by decide) (maskB b)⟩
theorem typRd : Statement .typRd := of_closed ⟨.typRd, 0x13#8, .n, 0x1300000000#40, 0xFFFFFFFFFF#40⟩ (by decide) rfl (by decide)
theorem typFlg : Statement .typFlg := of_closed ⟨.typFlg, 0x14#8, .n, 0x1400000000#40, 0xFFFFFFFFFF#40⟩ (by decide) rfl (by decide)
theorem typEq (w : Word) : Statement (.typEq w) :=
  ⟨⟨.typEq, 0x15#8, .w, 0x1500000000#40, 0xFF00000000#40⟩, by decide, rfl,
    matches_of_fields _ _ 0xFF#8 0x15#8 _ 0#32 0#32 (by decide) (by decide) (by decide) (maskW w)⟩
theorem crcInit : Statement .crcInit := of_closed ⟨.crcInit, 0x20#8, .n, 0x2000000000#40, 0xFFFFFFFFFF#40⟩ (by decide) rfl (by decide)
theorem crcByte (b : Byte) : Statement (.crcByte b) :=
  ⟨⟨.crcByte, 0x21#8, .b, 0x2100000000#40, 0xFFFFFFFF00#40⟩, by decide, rfl,
    matches_of_fields _ _ 0xFF#8 0x21#8 _ 0xFFFFFF00#32 0#32 (by decide) (by decide) (by decide) (maskB b)⟩
theorem crcType : Statement .crcType := of_closed ⟨.crcType, 0x22#8, .n, 0x2200000000#40, 0xFFFFFFFFFF#40⟩ (by decide) rfl (by decide)
theorem crcRd : Statement .crcRd := of_closed ⟨.crcRd, 0x23#8, .n, 0x2300000000#40, 0xFFFFFFFFFF#40⟩ (by decide) rfl (by decide)
theorem crcRdb (k : ByteIndex) : Statement (.crcRdb k) :=
  ⟨⟨.crcRdb, 0x24#8, .k, 0x2400000000#40, 0xFFFFFFFFFC#40⟩, by decide, rfl,
    matches_of_fields _ _ 0xFF#8 0x24#8 _ 0xFFFFFFFC#32 0#32 (by decide) (by decide) (by decide) (maskK k)⟩
theorem lenRd : Statement .lenRd := of_closed ⟨.lenRd, 0x25#8, .n, 0x2500000000#40, 0xFFFFFFFFFF#40⟩ (by decide) rfl (by decide)
theorem expLd (w : Word) : Statement (.expLd w) :=
  ⟨⟨.expLd, 0x28#8, .w, 0x2800000000#40, 0xFF00000000#40⟩, by decide, rfl,
    matches_of_fields _ _ 0xFF#8 0x28#8 _ 0#32 0#32 (by decide) (by decide) (by decide) (maskW w)⟩
theorem expPush (b : Byte) : Statement (.expPush b) :=
  ⟨⟨.expPush, 0x29#8, .b, 0x2900000000#40, 0xFFFFFFFF00#40⟩, by decide, rfl,
    matches_of_fields _ _ 0xFF#8 0x29#8 _ 0xFFFFFF00#32 0#32 (by decide) (by decide) (by decide) (maskB b)⟩
theorem expRd : Statement .expRd := of_closed ⟨.expRd, 0x2A#8, .n, 0x2A00000000#40, 0xFFFFFFFFFF#40⟩ (by decide) rfl (by decide)
theorem crcChk : Statement .crcChk := of_closed ⟨.crcChk, 0x2B#8, .n, 0x2B00000000#40, 0xFFFFFFFFFF#40⟩ (by decide) rfl (by decide)

end Sys2Proof.Laws.EncodedWordMatchesRow
end

