-- ==== Sys2Proof/Tests/Slice0.lean ====
section
/-! SUPPORT. The model's own tests: expected values are the spec's, from the encodings of `30_encoding.md` and the vectors of
`95_test_vectors.md`; and, for every statement with hypotheses, a witness that something meets them. -/

namespace Sys2Proof.Tests

open Sys2Proof.Machine

/-- Registers with the given contents. -/
def regs (ty crc ex len : Word) (st : Status) : Regs := { type := ty, crc := crc, expect := ex, len := len, status := st }

def none3 : Status := ⟨false, false, false⟩

/-- A state with those registers and nothing at its ports. -/
def idle (r : Regs) : State := { regs := r, input := [], rsp := none, taken := [] }

/-- One step with the word presented leaves the registers `r'` and the response `(code, data)`. -/
def runs (r : Regs) (w : CmdWord) (code : RspCode) (data : Word) (r' : Regs) : Bool :=
  match step ((idle r).present w) with
  | .next t => decide (t.regs = r') && decide (t.rsp = some ⟨code, data⟩) && t.input.isEmpty
  | .fault _ => false
  | .refused _ => false

/-! ## Well-formedness: each check refuses an ill-formed term (R48, R49) -/

theorem test_wf_byte_above_255 : (AsmStmt.command .crcByte (some (.num 256))).wellFormed = false := by decide
theorem test_wf_byte_string : (AsmStmt.command .typPush (some (.str ['R', 'u', 'S', 'T']))).wellFormed = false := by decide
theorem test_wf_unprintable_char : (AsmStmt.command .crcByte (some (.chr (Char.ofNat 0x7F)))).wellFormed = false := by decide
theorem test_wf_index_above_3 : (AsmStmt.command .crcRdb (some (.num 4))).wellFormed = false := by decide
theorem test_wf_word_above : (AsmStmt.command .typLd (some (.num 4294967296))).wellFormed = false := by decide
theorem test_wf_word_three_chars : (AsmStmt.command .typLds (some (.str ['R', 'u', 'S']))).wellFormed = false := by decide
theorem test_wf_operand_missing : (AsmStmt.command .expLd none).wellFormed = false := by decide
theorem test_wf_operand_too_many : (AsmStmt.command .crcRd (some (.num 0))).wellFormed = false := by decide
theorem test_wf_crcBytes_empty : (AsmStmt.crcBytes []).wellFormed = false := by decide
theorem test_wf_crcBytes_range : (AsmStmt.crcBytes [.num 1, .num 256]).wellFormed = false := by decide
theorem test_wf_crcStr_quote : (AsmStmt.crcStr ['"']).wellFormed = false := by decide
theorem test_wf_typBytes_range : (AsmStmt.typBytes (.num 1) (.num 2) (.num 3) (.num 999)).wellFormed = false := by decide
theorem test_wf_expBytes_range : (AsmStmt.expBytes (.num 999) (.num 2) (.num 3) (.num 4)).wellFormed = false := by decide
theorem test_wf_accepts : (AsmStmt.command .crcRdb (some (.num 3))).wellFormed = true := by decide
theorem test_wf_instr : (Instr.crcRdb 3#2).wellFormed = true := by decide

/-! ## Decoding: one word per constructor, from the encodings of R43 and the examples of the rules -/

theorem test_decode_sysRst : decodeTableWord 40 0x0100000000 = some .sysRst := by decide
theorem test_decode_sysStat : decodeTableWord 40 0x0200000000 = some .sysStat := by decide
theorem test_decode_typLd : decodeTableWord 40 0x1052753554 = some (.typLd 0x52753554#32) := by decide
theorem test_decode_typLds : decodeTableWord 40 0x1152755354 = some (.typLds 0x52755354#32) := by decide
theorem test_decode_typPush : decodeTableWord 40 0x1200000052 = some (.typPush 0x52#8) := by decide
theorem test_decode_typRd : decodeTableWord 40 0x1300000000 = some .typRd := by decide
theorem test_decode_typFlg : decodeTableWord 40 0x1400000000 = some .typFlg := by decide
theorem test_decode_typEq : decodeTableWord 40 0x1552755374 = some (.typEq 0x52755374#32) := by decide
theorem test_decode_crcInit : decodeTableWord 40 0x2000000000 = some .crcInit := by decide
theorem test_decode_crcByte : decodeTableWord 40 0x2100000061 = some (.crcByte 0x61#8) := by decide
theorem test_decode_crcType : decodeTableWord 40 0x2200000000 = some .crcType := by decide
theorem test_decode_crcRd : decodeTableWord 40 0x2300000000 = some .crcRd := by decide
theorem test_decode_crcRdb : decodeTableWord 40 0x2400000003 = some (.crcRdb 3#2) := by decide
theorem test_decode_lenRd : decodeTableWord 40 0x2500000000 = some .lenRd := by decide
theorem test_decode_expLd : decodeTableWord 40 0x282B0D0AFA = some (.expLd 0x2B0D0AFA#32) := by decide
theorem test_decode_expPush : decodeTableWord 40 0x290000002B = some (.expPush 0x2B#8) := by decide
theorem test_decode_expRd : decodeTableWord 40 0x2A00000000 = some .expRd := by decide
theorem test_decode_crcChk : decodeTableWord 40 0x2B00000000 = some .crcChk := by decide
theorem test_decode_unassigned :
    [0x0000000000, 0x0300000000, 0x0F00000000, 0x1600000000, 0x1F00000000, 0x2600000000, 0x2700000000, 0x2C00000000,
      0xFFFFFFFFFF].all (fun w => decide (decodeTableWord 40 w = none)) = true := by decide
theorem test_decode_reserved_bits :
    [0x0100000001, 0x2000000001, 0x2100000100, 0x2400000004].all (fun w => decide (decodeTableWord 40 w = none))
      = true := by decide

/-- The encoding column's binary pattern of CRC.RDB, bit by bit (`opcode_table.json`), with `kk` = 10. -/
theorem test_encode_bits : encode (.crcRdb 2#2) = 0b0010010000000000000000000000000000000010#40 := by decide

/-! ## One step per command (`95_test_vectors.md` sections 2.3, 3.3, 4) -/

theorem test_step_sysRst :
    runs (regs 0x52755354#32 0xD4F2F505#32 0x2B0D0AFA#32 5#32 ⟨true, true, true⟩) 0x0100000000#40 .ok 0#32
      (regs 0#32 0xFFFFFFFF#32 0#32 0#32 none3) = true := by decide
theorem test_step_sysStat :
    runs (regs 0#32 0#32 0#32 0#32 ⟨true, false, true⟩) 0x0200000000#40 .ok 5#32
      (regs 0#32 0#32 0#32 0#32 ⟨true, false, true⟩) = true := by decide
theorem test_step_typLd :
    runs (regs 0x49454E44#32 7#32 8#32 9#32 none3) 0x1052753554#40 .ok 0#32
      (regs 0x52753554#32 7#32 8#32 9#32 none3) = true := by decide
theorem test_step_typLds_reserved_bit :
    runs (regs 0x49454E44#32 7#32 8#32 9#32 none3) 0x1152757374#40 .ok 0#32
      (regs 0x52757374#32 7#32 8#32 9#32 none3) = true := by decide
theorem test_step_typLds_nonletter :
    runs (regs 0x49454E44#32 7#32 8#32 9#32 none3) 0x1152753554#40 .formatError 0x52753554#32
      (regs 0x49454E44#32 7#32 8#32 9#32 ⟨true, false, false⟩) = true := by decide
theorem test_step_typPush :
    runs (regs 0x52755354#32 7#32 8#32 9#32 none3) 0x1200000049#40 .ok 0#32
      (regs 0x75535449#32 7#32 8#32 9#32 none3) = true := by decide
theorem test_step_typRd :
    runs (regs 0x52755354#32 7#32 8#32 9#32 none3) 0x1300000000#40 .ok 0x52755354#32
      (regs 0x52755354#32 7#32 8#32 9#32 none3) = true := by decide
theorem test_step_typFlg :
    runs (regs 0x52757374#32 7#32 8#32 9#32 none3) 0x1400000000#40 .ok 0x19#32
      (regs 0x52757374#32 7#32 8#32 9#32 none3) = true := by decide
theorem test_step_typEq_case :
    runs (regs 0x52755354#32 7#32 8#32 9#32 none3) 0x1552755374#40 .ok 0#32
      (regs 0x52755354#32 7#32 8#32 9#32 none3) = true := by decide
theorem test_step_typEq_equal :
    runs (regs 0x52755354#32 7#32 8#32 9#32 none3) 0x1552755354#40 .ok 1#32
      (regs 0x52755354#32 7#32 8#32 9#32 none3) = true := by decide
theorem test_step_crcInit_keeps_flags :
    runs (regs 1#32 0x12345678#32 3#32 9#32 ⟨true, false, false⟩) 0x2000000000#40 .ok 0#32
      (regs 1#32 0xFFFFFFFF#32 3#32 0#32 ⟨true, false, false⟩) = true := by decide
theorem test_step_crcByte :
    runs (regs 1#32 0xFFFFFFFF#32 3#32 0#32 none3) 0x2100000061#40 .ok 0#32
      (regs 1#32 0x174841BC#32 3#32 1#32 none3) = true := by decide
theorem test_step_crcByte_len_wraps :
    runs (regs 1#32 0xFFFFFFFF#32 3#32 0xFFFFFFFF#32 none3) 0x2100000000#40 .ok 0#32
      (regs 1#32 0x2DFD1072#32 3#32 0#32 none3) = true := by decide
theorem test_step_crcType :
    runs (regs 0x52755354#32 0xFFFFFFFF#32 3#32 0#32 none3) 0x2200000000#40 .ok 0#32
      (regs 0x52755354#32 0x1015D60B#32 3#32 0#32 none3) = true := by decide +kernel
theorem test_step_crcRd :
    runs (regs 1#32 0xD4F2F505#32 3#32 5#32 none3) 0x2300000000#40 .ok 0x2B0D0AFA#32
      (regs 1#32 0xD4F2F505#32 3#32 5#32 none3) = true := by decide
theorem test_step_crcRdb_first :
    runs (regs 1#32 0xD4F2F505#32 3#32 5#32 none3) 0x2400000000#40 .ok 0x2B#32
      (regs 1#32 0xD4F2F505#32 3#32 5#32 none3) = true := by decide
theorem test_step_crcRdb_last :
    runs (regs 1#32 0xD4F2F505#32 3#32 5#32 none3) 0x2400000003#40 .ok 0xFA#32
      (regs 1#32 0xD4F2F505#32 3#32 5#32 none3) = true := by decide
theorem test_step_lenRd :
    runs (regs 1#32 2#32 3#32 5#32 none3) 0x2500000000#40 .ok 5#32 (regs 1#32 2#32 3#32 5#32 none3) = true := by decide
theorem test_step_expLd :
    runs (regs 1#32 2#32 3#32 5#32 none3) 0x282B0D0AFA#40 .ok 0#32
      (regs 1#32 2#32 0x2B0D0AFA#32 5#32 none3) = true := by decide
theorem test_step_expPush :
    runs (regs 1#32 2#32 0xAABBCCDD#32 5#32 none3) 0x290000002B#40 .ok 0#32
      (regs 1#32 2#32 0xBBCCDD2B#32 5#32 none3) = true := by decide
theorem test_step_expRd :
    runs (regs 1#32 2#32 0x2B0D0AFA#32 5#32 none3) 0x2A00000000#40 .ok 0x2B0D0AFA#32
      (regs 1#32 2#32 0x2B0D0AFA#32 5#32 none3) = true := by decide
theorem test_step_crcChk_equal :
    runs (regs 1#32 0xD4F2F505#32 0x2B0D0AFA#32 5#32 none3) 0x2B00000000#40 .ok 0x2B0D0AFA#32
      (regs 1#32 0xD4F2F505#32 0x2B0D0AFA#32 5#32 none3) = true := by decide
theorem test_step_crcChk_raw_value :
    runs (regs 1#32 0xD4F2F505#32 0xD4F2F505#32 5#32 none3) 0x2B00000000#40 .crcMismatchError 0x2B0D0AFA#32
      (regs 1#32 0xD4F2F505#32 0xD4F2F505#32 5#32 ⟨false, true, false⟩) = true := by decide
theorem test_step_illegal_reserved :
    runs Regs.reset 0x0100000001#40 .illegalCommand 1#32
      (regs 0#32 0xFFFFFFFF#32 0#32 0#32 ⟨false, false, true⟩) = true := by decide
theorem test_step_illegal_all_ones :
    runs Regs.reset 0xFFFFFFFFFF#40 .illegalCommand 0xFF#32
      (regs 0#32 0xFFFFFFFF#32 0#32 0#32 ⟨false, false, true⟩) = true := by decide

/-! ## The decoder, the checksum and the assembler on the spec's vectors -/

theorem test_isAlpha_bounds :
    [0x40#8, 0x41#8, 0x5A#8, 0x5B#8, 0x60#8, 0x61#8, 0x7A#8, 0x7B#8, 0xC1#8].map isAlpha
      = [false, true, true, false, false, true, true, false, false] := by decide
theorem test_flags_vectors :
    [0x52755354#32, 0x74455874#32, 0x415A617A#32, 0xFFFFFFFF#32, 0x00200000#32, 0x4141417B#32].map flags
      = [0x35#32, 0x3E#32, 0x1B#32, 0x08#32, 0x05#32, 0x0F#32] := by decide
/-- `CRC_POLY_R` is `CRC_POLY` with its 32 bits reversed (R5). -/
theorem test_poly_reversed : crcPoly.reverse = crcPolyR := by decide +kernel
theorem test_crc32_nine_digits :
    crc32 [0x31#8, 0x32#8, 0x33#8, 0x34#8, 0x35#8, 0x36#8, 0x37#8, 0x38#8, 0x39#8] = 0xCBF43926#32 := by decide +kernel
theorem test_crcTable_entries :
    [0x01#8, 0x40#8, 0x80#8, 0xFF#8].map crcTable = [0x77073096#32, 0x76DC4190#32, 0xEDB88320#32, 0x2D02EF8D#32] := by decide +kernel
theorem test_opcode_rows_disjoint : (opcodeTable.map OpcodeRow.op).Nodup := by decide
theorem test_asm_string_operand :
    assembleLine "TYP.LD \"RuST\" ; a type".toList = some [.typLd 0x52755354#32] := by decide
theorem test_asm_char_operand : assembleLine "CRC.BYTE 'h'".toList = some [.crcByte 0x68#8] := by decide
theorem test_asm_hex_operand : assembleLine "EXP.LD 0x2B0D0AFA".toList = some [.expLd 0x2B0D0AFA#32] := by decide
theorem test_asm_lower_case_digits : assembleLine "EXP.LD 0x2b0D0afA".toList = some [.expLd 0x2B0D0AFA#32] := by decide
theorem test_asm_out_of_range : assembleLine "CRC.RDB 4".toList = none := by decide
theorem test_asm_crcStr :
    assembleLine "CRC.STR \"msg\"".toList = some [.crcByte 0x6D#8, .crcByte 0x73#8, .crcByte 0x67#8] := by decide
theorem test_asm_typBytes :
    assembleLine "TYP.BYTES 0x52, 117, 'S', 0x54".toList
      = some [.typPush 0x52#8, .typPush 0x75#8, .typPush 0x53#8, .typPush 0x54#8] := by decide
theorem test_asm_lower_case_mnemonic : assembleLine "crc.rd".toList = none := by decide
theorem test_asm_program :
    assembleProgram ["; start".toList, "CRC.INIT".toList, "  CRC.TYPE ; feed".toList] = some [.crcInit, .crcType] := by decide

/-! ## The interface -/

theorem test_withFetchWord_runs_next :
    (match step (State.reset.withFetchWord 40 0x2100000061) with
      | .next t => decide (t.regs.crc = 0x174841BC#32) && decide (t.regs.len = 1#32)
      | .fault _ => false
      | .refused _ => false) = true := by decide
/-- A state with a response not yet taken: reset discards it, taking takes it, and a command waits for it (R46, R106). -/
def waiting (input : List PortEvent) : State :=
  { regs := Regs.reset, input := input, rsp := some ⟨.ok, 9#32⟩, taken := [] }

def takenAfter (s : State) : List Response :=
  match step s with
  | .next t => t.taken
  | .fault _ => []
  | .refused _ => []

theorem test_reset_discards : takenAfter (waiting [.reset]) = [] := by decide
/-- The next step's `cmd_ready` and what is left of the schedule. -/
def heldAfter (s : State) : Option (Bool × List PortEvent) :=
  match step s with
  | .next t => some (t.cmdReady false, t.input)
  | .fault _ => none
  | .refused _ => none

theorem test_command_waits : heldAfter (waiting [.command 0x2300000000#40, .command 0x2500000000#40]) =
    some (false, [.command 0x2300000000#40, .command 0x2500000000#40]) := by decide
theorem test_take_while_held : heldAfter (waiting [.command 0x2300000000#40, .take, .reset]) =
    some (true, [.command 0x2300000000#40, .reset]) := by decide
theorem test_reset_while_held : heldAfter (waiting [.command 0x2300000000#40, .reset, .take]) =
    some (true, [.command 0x2300000000#40, .take]) := by decide
theorem test_withFetchWord_with_response_outstanding :
    (match step ((waiting [.take]).withFetchWord 40 0x2100000061) with
      | .next t => decide (t.regs.crc = 0x174841BC#32) && decide (t.taken = [⟨.ok, 9#32⟩])
      | .fault _ => false
      | .refused _ => false) = true := by decide
theorem test_take : takenAfter (waiting [.take]) = [⟨.ok, 9#32⟩] := by decide

/-! ## Witnesses: for each statement with hypotheses, something that meets all of them together -/

/-- A state with `cmd` presented and a fault flag up. -/
def presenting (cmd : CmdWord) : State :=
  { regs := regs 0x52755354#32 0xD4F2F505#32 0x2B0D0AFB#32 0xFFFFFFFF#32 ⟨true, false, false⟩
    input := [.command cmd], rsp := none, taken := [⟨.ok, 9#32⟩] }

/-- StepRunsTheDecodedCommand, EveryCommandIsAnswered, ThreeFaultsAndTheirCauses, NotReadyUntilTheResponseIsTaken. -/
theorem witness_command_decodes :
    ∃ s t : State, s.input = [.command 0x2100000061#40] ∧ s.rsp = none ∧ s.cmdReady false = true ∧ decode 0x2100000061#40 = .ok (.crcByte 0x61#8) ∧
      step s = .next t := ⟨presenting _, _, rfl, rfl, rfl, rfl, rfl⟩
/-- NotReadyUntilTheResponseIsTaken, EveryCommandIsAnswered, HardwareResetDiscardsTheOutstandingResponse: a command held,
with nothing, a further command, a take and a reset after it. -/
theorem witness_command_held :
    (waiting [.command 0#40]).cmdReady false = false ∧ (waiting [.command 0#40, .command 0#40]).cmdReady false = false ∧
      (waiting [.command 0#40, .take]).cmdReady false = false ∧ (waiting [.command 0#40, .reset]).rsp ≠ none ∧
      (waiting [.command 0#40, .take]).rsp ≠ none := by decide
/-- IllegalWordSetsOnlyEill: an unassigned opcode. -/
theorem witness_illegal_word :
    ∃ s : State, s.input = [.command 0xFFFFFFFFFF#40] ∧ s.rsp = none ∧
      decode 0xFFFFFFFFFF#40 = .error .unassignedOpcode := ⟨presenting _, rfl, rfl, rfl⟩
/-- TakingAndWaitingKeepTheRegisters, LenCountsDataBytes, CrcTracksTheBytesFed: the two ports' cases. -/
theorem witness_idle_and_take :
    State.reset.input = [] ∧ (waiting [.take]).input = [.take] ∧
      State.reset.tracksCount 0 ∧ State.reset.tracksBytes [] ∧
      (waiting [.take]).tracksCount 0 ∧ (waiting [.take]).tracksBytes [] := ⟨rfl, rfl, rfl, rfl, rfl, rfl⟩
/-- HardwareResetDiscardsTheOutstandingResponse, ResetValuesAndConsequences, SysRstResetsEveryRegister,
LenCountsDataBytes and CrcTracksTheBytesFed at a reset, OnlyResetClearsAStickyFlag (first way). -/
theorem witness_reset_event :
    ∃ s t u : State, s.input = [.reset] ∧ s.nextEvent = some (.reset, []) ∧ step s = .next t ∧ exec .sysRst s = .next u ∧ s.tracksCount 1 ∧
      s.tracksBytes [0x61#8] ∧ s.regs.status.efmt = true ∧ t.regs.status.efmt = false :=
  ⟨{ regs := regs 0#32 (crcBytes crcInitValue [0x61#8]) 0#32 1#32 ⟨true, false, false⟩, input := [.reset], rsp := none,
     taken := [] }, _, _, rfl, rfl, rfl, rfl, rfl, rfl, rfl, rfl⟩
/-- ResetValuesAndConsequences: the states with the reset values. -/
theorem witness_reset_values :
    State.reset.regs = ⟨0x00000000#32, 0xFFFFFFFF#32, 0x00000000#32, 0x00000000#32, ⟨false, false, false⟩⟩ := rfl
/-- LenCountsDataBytes and CrcTracksTheBytesFed at a command and at an illegal word, with bytes already fed. -/
theorem witness_fed_bytes :
    ∃ s u : State, s.tracksCount 1 ∧ s.tracksBytes [0x61#8] ∧ s.input = [.command 0x2100000061#40] ∧
      u.tracksCount 1 ∧ u.tracksBytes [0x61#8] ∧ u.input = [.command 0x2100000100#40] ∧
      decode 0x2100000100#40 = .error .reservedBitsB :=
  ⟨{ idle (regs 0#32 (crcBytes crcInitValue [0x61#8]) 0#32 1#32 none3) with input := [.command 0x2100000061#40] },
    { idle (regs 0#32 (crcBytes crcInitValue [0x61#8]) 0#32 1#32 none3) with input := [.command 0x2100000100#40] },
    rfl, rfl, rfl, rfl, rfl, rfl, rfl⟩
/-- RegistersAreWrittenOnlyByTheirCommands: each of the five registers does change in some step. -/
theorem witness_registers_change :
    (∃ t, exec (.typLd 1#32) State.reset = .next t ∧ t.regs.type ≠ State.reset.regs.type) ∧
    (∃ t, exec (.crcByte 0x61#8) State.reset = .next t ∧ t.regs.crc ≠ State.reset.regs.crc ∧
      t.regs.len ≠ State.reset.regs.len) ∧
    (∃ t, exec (.expLd 1#32) State.reset = .next t ∧ t.regs.expect ≠ State.reset.regs.expect) ∧
    (∃ t, exec (.typLds 0#32) State.reset = .next t ∧ t.regs.status ≠ State.reset.regs.status) :=
  ⟨⟨_, rfl, by decide⟩, ⟨_, rfl, by decide, by decide⟩, ⟨_, rfl, by decide⟩, ⟨_, rfl, by decide⟩⟩
/-- DecodeOfEncodeIsTheCommand, EncodeOfDecodeIsTheWord, DecodingIsMatchingARow. -/
theorem witness_roundtrip :
    (Instr.typLd 0xFFFFFFFF#32).wellFormed = true ∧ decode 0x10FFFFFFFF#40 = .ok (.typLd 0xFFFFFFFF#32) ∧
      (∃ row ∈ opcodeTable, row.mnemonic = .typLd ∧ 0x10FFFFFFFF#40 &&& row.mask = row.pattern) :=
  ⟨by decide, rfl, ⟨.typLd, 0x10#8, .w, 0x1000000000#40, 0xFF00000000#40⟩, by decide, rfl, by decide⟩
/-- IllegalWordsAreTheFourClasses: a word at the bounds of each class, and words just outside that decode. -/
theorem witness_illegal_classes :
    [0x0000000000#40, 0x0300000000#40, 0x0F00000000#40, 0x1600000000#40, 0x1F00000000#40, 0x2600000000#40,
      0x2700000000#40, 0x2C00000000#40, 0xFF00000000#40].map decode = List.replicate 9 (.error .unassignedOpcode) ∧
    decode 0x2B80000000#40 = .error .reservedBitsN ∧ decode 0x2900000100#40 = .error .reservedBitsB ∧
    decode 0x2400000004#40 = .error .reservedBitsK ∧
    decode 0x2B00000000#40 = .ok .crcChk ∧ decode 0x29000000FF#40 = .ok (.expPush 0xFF#8) ∧
    decode 0x2400000003#40 = .ok (.crcRdb 3#2) ∧ decode 0x28FFFFFFFF#40 = .ok (.expLd 0xFFFFFFFF#32) :=
  ⟨rfl, rfl, rfl, rfl, rfl, rfl, rfl, rfl⟩
/-- PseudoInstructionsExpand, AssemblerAcceptsExactlyTheOperandsInRange. -/
theorem witness_assembler :
    [AsmOperand.num 255, .chr '~'].map asmByte = [0xFF#8, 0x7E#8].map some ∧ asmByte (.num 0) = some 0#8 ∧
      assemble (.command .crcRdb (some (.num 3))) = some [.crcRdb 3#2] := by decide
/-- PseudoInstructionsExpand: the bounds of the characters of CRC.STR. -/
theorem witness_crcStr_chars : ∀ c ∈ [' ', '~'], 0x20 ≤ c.toNat ∧ c.toNat ≤ 0x7E ∧ c ≠ '"' := by
  intro c hc
  simp only [List.mem_cons, List.not_mem_nil, or_false] at hc
  rcases hc with rfl | rfl <;> decide
/-- TypLdStoresAnyWord, TypLdsStoresFourLettersOrFaults and DecoderLawsHold: four letters at the bounds, and one byte that is none. -/
theorem witness_letters :
    (∀ k : ByteIndex, isAlpha (byteOf 0x415A617A#32 k) = true) ∧ (∃ k : ByteIndex, isAlpha (byteOf 0x4141417B#32 k) = false)
      ∧ alpha 0x415A617A#32 = true ∧ isAlpha 0x5A#8 = true ∧ (0xC1#8 : Byte).getLsbD 7 = true := by decide
/-- TypRdReadsTheType, CrcInitStartsANewChecksum, CrcRdReadsTheFinalisedCrc (with `reset`'s account of no bytes), CrcChkComparesWithTheStoredCrc (second CRC.CHK). -/
theorem witness_exec_answers :
    (∃ t, exec (.typLd 7#32) State.reset = .next t) ∧ (∃ t, exec .crcInit State.reset = .next t) ∧
      (∃ t, exec .crcChk State.reset = .next t) ∧ State.reset.tracksBytes [] ∧
      (∃ t, exec .crcType State.reset = .next t) := ⟨⟨_, rfl⟩, ⟨_, rfl⟩, ⟨_, rfl⟩, rfl, ⟨_, rfl⟩⟩
/-- TypEqComparesAllBits, CrcChkComparesWithTheStoredCrc: equal and different contents. -/
theorem witness_compares :
    State.reset.regs.type = 0#32 ∧ State.reset.regs.type ≠ 1#32 ∧
      State.reset.regs.crc ^^^ 0xFFFFFFFF#32 = State.reset.regs.expect ∧
      (presenting 0#40).regs.crc ^^^ 0xFFFFFFFF#32 ≠ (presenting 0#40).regs.expect := by decide
/-- CrcByteFeedsOneByte: the wrap of `LEN`. -/
theorem witness_len_wraps :
    ∃ t, (presenting 0#40).regs.len = 0xFFFFFFFF#32 ∧ exec (.crcByte 0#8) (presenting 0#40) = .next t := ⟨_, rfl, rfl⟩
/-- CrcTypeFeedsTheFourTypeBytes: both runs answer a next state. -/
theorem witness_four_bytes :
    ∃ t u, exec .crcType State.reset = .next t ∧
      runInstrs (feedBytes (wireBytes State.reset.regs.type)) State.reset = .next u := ⟨_, _, rfl, rfl⟩
/-- DecoderLawsHold: bounds of the bit number, a value of the flags word. -/
theorem witness_decoder_laws :
    (31 < 32 ∧ 31 % 8 ≠ 5) ∧ (0 < 32 ∧ 0 % 8 ≠ 5) ∧ flags 0x52755354#32 = 0x35#32 ∧ 29 ∈ [5, 13, 21, 29] := by decide
/-- OneByteDifferenceChangesTheChecksum, CorruptedByteFailsTheParse: the last data byte of "hello" changed (P3). -/
theorem witness_corrupted_byte :
    ∃ (data good pre post : List Byte) (b b' : Byte), good = pre ++ [b] ++ post ∧
      [0x52#8, 0x75#8, 0x53#8, 0x54#8] ++ data = pre ++ [b'] ++ post ∧ b ≠ b' :=
  ⟨[0x68#8, 0x65#8, 0x6C#8, 0x6C#8, 0x70#8], [0x52#8, 0x75#8, 0x53#8, 0x54#8, 0x68#8, 0x65#8, 0x6C#8, 0x6C#8, 0x6F#8],
    [0x52#8, 0x75#8, 0x53#8, 0x54#8, 0x68#8, 0x65#8, 0x6C#8, 0x6C#8], [], 0x6F#8, 0x70#8, rfl, rfl, by decide⟩
/-- BuildSequenceComputesTheChecksum and SerialisedRecordPassesTheParse: both loads; ParseSequenceChecksTheRecord: a record that passes and one that does not
(`95_test_vectors.md` P1, P2, P3). -/
theorem witness_build_and_parse :
    alpha 0x52755354#32 = true ∧ wordOf 0x52#8 0x75#8 0x53#8 0x54#8 = 0x52755354#32 ∧
    crc32 ([0x52#8, 0x75#8, 0x53#8, 0x54#8] ++ [0x68#8, 0x65#8, 0x6C#8, 0x6C#8, 0x6F#8])
      = wordOf 0x2B#8 0x0D#8 0x0A#8 0xFA#8 ∧
    crc32 ([0x52#8, 0x75#8, 0x53#8, 0x54#8] ++ [0x68#8, 0x65#8, 0x6C#8, 0x6C#8, 0x70#8])
      ≠ wordOf 0x2B#8 0x0D#8 0x0A#8 0xFA#8 := by decide +kernel
/-- ThreeFaultsAndTheirCauses, FaultChangesOneStickyFlagOnly: each of the three faults is taken from some state. -/
theorem witness_each_fault :
    [0x1152753554#40, 0x2B00000000#40, 0x2000000001#40].map (fun w =>
      match step (presenting w) with
      | .next t => t.rsp.map Response.code
      | .fault _ => none
      | .refused _ => none) = [some .formatError, some .crcMismatchError, some .illegalCommand] := by decide
/-- OnlyResetClearsAStickyFlag: SYS.RST clears a flag that was up. -/
theorem witness_sysRst_clears :
    ∃ t, step (presenting 0x0100000000#40) = .next t ∧ (presenting 0x0100000000#40).regs.status.efmt = true ∧
      t.regs.status.efmt = false := ⟨_, rfl, rfl, rfl⟩
/-- StickyFlagsBlockNothing, ReadCommandsChangeNoState. -/
theorem witness_read_command :
    isReadCommand (.typEq 3#32) = true ∧ (∃ t, exec (.typEq 3#32) State.reset = .next t) ∧ Instr.typEq 3#32 ≠ .sysStat :=
  ⟨rfl, ⟨_, rfl⟩, by decide⟩
/-- EveryStepKeepsFlagsReported: a state with a flag up that has been reported, which steps. -/
theorem witness_flagsReported :
    ∃ s t : State, s.flagsReported = true ∧ s.regs.status.efmt = true ∧ step s = .next t :=
  ⟨{ presenting 0x2B00000000#40 with taken := [⟨.formatError, 0#32⟩] }, _, by decide, rfl, rfl⟩
/-- SysRstResetsEveryRegister, CrcRdbReadsOneByteInWireOrder: a reserved bit set. -/
theorem witness_reserved_bit :
    0x80000000#32 ≠ 0#32 ∧ (presenting 0x0180000000#40).input = [.command (0x01#8 ++ 0x80000000#32)] ∧
      (0x00000004#32 : Word).extractLsb' 2 30 ≠ 0#30 := by decide
/-- StreamNumbersAreBigEndian: the record of `95_test_vectors.md` P1, whose length field reads otherwise in the other
order. -/
theorem witness_hello_record :
    [0x68#8, 0x65#8, 0x6C#8, 0x6C#8, 0x6F#8].length < 2 ^ 32 ∧
      (chunkRecord 0x52755354#32 [0x68#8, 0x65#8, 0x6C#8, 0x6C#8, 0x6F#8]).map BitVec.toNat =
        [0, 0, 0, 5, 0x52, 0x75, 0x53, 0x54, 0x68, 0x65, 0x6C, 0x6C, 0x6F, 0x2B, 0x0D, 0x0A, 0xFA] := by decide +kernel
/-- EveryCommandIsAnswered: a state whose next event is no reset. -/
theorem witness_no_reset : ∀ rest, (presenting 0x2B00000000#40).nextEvent ≠ some (.reset, rest) := by
  intro rest h; cases h

end Sys2Proof.Tests
end

section
/-! PROOFS. Wire order of a word (`00_scope.md` R9): `byteOf` and `wordOf` are inverse, and `wordOf` is the big-endian
number. -/

namespace Sys2Proof.Machine

/-- R9, the first byte on the wire: bits 31:24. -/
theorem byteOf_zero (w : Word) : byteOf w 0#2 = w.extractLsb' 24 8 := rfl

theorem byteOf_one (w : Word) : byteOf w 1#2 = w.extractLsb' 16 8 := rfl

theorem byteOf_two (w : Word) : byteOf w 2#2 = w.extractLsb' 8 8 := rfl

/-- R9, the last byte on the wire: bits 7:0. -/
theorem byteOf_three (w : Word) : byteOf w 3#2 = w.extractLsb' 0 8 := rfl

/-- The number of a bit string with a byte appended at the bottom: one digit more in base 256. -/
theorem toNat_append_byte {n : Nat} (x : BitVec n) (b : Byte) : (x ++ b).toNat = x.toNat * 2 ^ 8 + b.toNat := by
  rw [BitVec.toNat_append, ← Nat.shiftLeft_add_eq_or_of_lt b.isLt, Nat.shiftLeft_eq]

/-- R9: `word` reads its four bytes as a big-endian number. -/
theorem wordOf_toNat (b0 b1 b2 b3 : Byte) :
    (wordOf b0 b1 b2 b3).toNat = b0.toNat * 2 ^ 24 + b1.toNat * 2 ^ 16 + b2.toNat * 2 ^ 8 + b3.toNat := by
  simp only [wordOf, toNat_append_byte]
  omega

/-! Byte `k` of a concatenation: drop the bytes below it, then take the bottom byte of what remains. -/

@[simp] theorem byteOf_wordOf_zero (b0 b1 b2 b3 : Byte) : byteOf (wordOf b0 b1 b2 b3) 0#2 = b0 := by
  rw [byteOf_zero, wordOf, BitVec.extractLsb'_append_eq_of_le (by decide), BitVec.extractLsb'_append_eq_of_le (by decide)]
  exact BitVec.extractLsb'_append_eq_left

@[simp] theorem byteOf_wordOf_one (b0 b1 b2 b3 : Byte) : byteOf (wordOf b0 b1 b2 b3) 1#2 = b1 := by
  rw [byteOf_one, wordOf, BitVec.extractLsb'_append_eq_of_le (by decide), BitVec.extractLsb'_append_eq_of_le (by decide)]
  exact BitVec.extractLsb'_append_eq_right

@[simp] theorem byteOf_wordOf_two (b0 b1 b2 b3 : Byte) : byteOf (wordOf b0 b1 b2 b3) 2#2 = b2 := by
  rw [byteOf_two, wordOf, BitVec.extractLsb'_append_eq_of_le (by decide)]
  exact BitVec.extractLsb'_append_eq_right

@[simp] theorem byteOf_wordOf_three (b0 b1 b2 b3 : Byte) : byteOf (wordOf b0 b1 b2 b3) 3#2 = b3 :=
  BitVec.extractLsb'_append_eq_right

/-- Four bytes put into a word go out on the wire in the same order (R9). -/
@[simp] theorem wireBytes_wordOf (b0 b1 b2 b3 : Byte) : wireBytes (wordOf b0 b1 b2 b3) = [b0, b1, b2, b3] := by
  simp [wireBytes]

/-- `word` of a word's own bytes is the word: adjacent slices join, from the top byte down, into bits 31:0. -/
@[simp] theorem wordOf_byteOf (w : Word) : wordOf (byteOf w 0#2) (byteOf w 1#2) (byteOf w 2#2) (byteOf w 3#2) = w := by
  rw [wordOf, byteOf_zero, byteOf_one, byteOf_two, byteOf_three,
    BitVec.extractLsb'_append_extractLsb'_eq_extractLsb' (show 24 = 16 + 8 from rfl),
    BitVec.extractLsb'_append_extractLsb'_eq_extractLsb' (show 16 = 8 + 8 from rfl)]
  exact BitVec.extractLsb'_append_extractLsb'

end Sys2Proof.Machine

open Sys2Proof Sys2Proof.Machine

/-- Settles O11: the slices are what `byteOf` computes; the number is Horner's scheme in base 256; the two inverses are
`wireBytes_wordOf` and `wordOf_byteOf`. -/
theorem wireOrderOfAWord : Obligations.WireOrderOfAWord :=
  ⟨fun w => ⟨byteOf_zero w, byteOf_one w, byteOf_two w, byteOf_three w⟩, wordOf_toNat, wireBytes_wordOf, wordOf_byteOf⟩

end

section
/-! PROOFS. What the read commands answer, as equations of `exec`, and the reset values with what follows from them
(`10_state.md` R21). -/

namespace Sys2Proof.Machine

/-! One equation per command: the response it gives from the registers it reads, and no other change. -/

/-- R84: the state after SYS.RST, whatever it was before. -/
theorem exec_sysRst (s : State) : exec .sysRst s = .next (s.resetRegs.respond .ok 0#32) := rfl

/-- R85. -/
theorem exec_sysStat (s : State) : exec .sysStat s = .next (s.respond .ok s.regs.status.word) := rfl

/-- R62. -/
theorem exec_typFlg (s : State) : exec .typFlg s = .next (s.respond .ok (flags s.regs.type)) := rfl

/-- R74. -/
theorem exec_crcRd (s : State) : exec .crcRd s = .next (s.respond .ok (finalCrc s.regs.crc)) := rfl

/-- R80, the checksum agrees with the stored one. -/
theorem exec_crcChk_of_eq {s : State} (h : finalCrc s.regs.crc = s.regs.expect) :
    exec .crcChk s = .next (s.respond .ok (finalCrc s.regs.crc)) := by
  simp [exec, execCrcChk, h]

/-! What is read from the registers' reset values. -/

/-- The decoded flags of a zero type (R50 to R57): CRIT, PUB and RSVOK only. -/
@[simp] theorem flags_zero : flags 0x00000000#32 = 0x00000007#32 := by decide

/-- The accumulator's reset value finalises to 0 (R16, R74). -/
@[simp] theorem finalCrc_allOnes : finalCrc 0xFFFFFFFF#32 = 0x00000000#32 := by decide

/-- No sticky flag up reads as 0 (R19). -/
@[simp] theorem Status.clear_word : Status.clear.word = 0x00000000#32 := by decide

/-- The four reads from the reset registers: 7 from TYP.FLG, 0 from the other three, and CRC.CHK finds the stored CRC equal. -/
theorem reads_of_reset_regs {s : State} (h : s.regs = Regs.reset) :
    exec .typFlg s = .next (s.respond .ok 0x00000007#32) ∧ exec .crcRd s = .next (s.respond .ok 0x00000000#32) ∧
    exec .crcChk s = .next (s.respond .ok 0x00000000#32) ∧ exec .sysStat s = .next (s.respond .ok 0x00000000#32) := by
  have htype : flags s.regs.type = 0x00000007#32 := by rw [h]; exact flags_zero
  have hcrc : finalCrc s.regs.crc = 0x00000000#32 := by rw [h]; exact finalCrc_allOnes
  have hexpect : finalCrc s.regs.crc = s.regs.expect := by rw [hcrc, h]; rfl
  have hstatus : s.regs.status.word = 0x00000000#32 := by rw [h]; exact Status.clear_word
  rw [exec_typFlg, exec_crcRd, exec_crcChk_of_eq hexpect, exec_sysStat, htype, hcrc, hstatus]
  exact ⟨rfl, rfl, rfl, rfl⟩

end Sys2Proof.Machine

open Sys2Proof Sys2Proof.Machine

/-- Settles O8: hardware reset and SYS.RST both write `Regs.reset`; the table's further columns are computed from the
zero type, and the responses are `reads_of_reset_regs`. -/
theorem resetValuesAndConsequences : Obligations.ResetValuesAndConsequences := by
  refine ⟨?hardwareReset, ?sysRst, ?resetState, ?noLetter, ?flagsOfZero, ?responses⟩
  case hardwareReset =>
    intro s rest hinput
    exact ⟨_, step_resets (State.nextEvent_reset hinput), s.hardReset_regs⟩
  case sysRst =>
    intro s
    exact ⟨_, exec_sysRst s, s.resetRegs_regs⟩
  case resetState => rfl
  case noLetter => decide
  case flagsOfZero => decide
  case responses =>
    intro s hregs
    exact reads_of_reset_regs hregs

end

section
/-! PROOFS. The chunk record (`20_memory.md` R26, R28): its length, what stands at each offset, and the number a serialised
word denotes. -/

namespace Sys2Proof.Machine

@[simp] theorem length_wireBytes (w : Word) : (wireBytes w).length = 4 := rfl

/-- R28 from R9: the four bytes of a word, the first most significant, denote the word's number. -/
theorem bigEndian_byteOf (w : Word) :
    (byteOf w 0#2).toNat * 2 ^ 24 + (byteOf w 1#2).toNat * 2 ^ 16 + (byteOf w 2#2).toNat * 2 ^ 8 + (byteOf w 3#2).toNat
      = w.toNat := by
  rw [← wordOf_toNat, wordOf_byteOf]

/-- The length field holds the number of data bytes as long as it can express it (D20). -/
theorem toNat_lengthField {data : List Byte} (h : data.length < 2 ^ 32) :
    (BitVec.ofNat 32 data.length).toNat = data.length := by
  rw [BitVec.toNat_ofNat, Nat.mod_eq_of_lt h]

section Record
variable (t : Word) (data : List Byte) (crc : Word)

theorem length_recordBytes : (recordBytes t data crc).length = 12 + data.length := by
  simp only [recordBytes, List.length_append, length_wireBytes]
  omega

/-! The fields at the offsets of R26. -/

theorem recordBytes_take_length : (recordBytes t data crc).take 4 = wireBytes (BitVec.ofNat 32 data.length) := rfl

theorem recordBytes_type : ((recordBytes t data crc).drop 4).take 4 = wireBytes t := rfl

theorem recordBytes_drop_type : (recordBytes t data crc).drop 8 = data ++ wireBytes crc := rfl

theorem recordBytes_data : ((recordBytes t data crc).drop 8).take data.length = data := by
  rw [recordBytes_drop_type, List.take_left]

theorem recordBytes_crc : (recordBytes t data crc).drop (8 + data.length) = wireBytes crc := by
  rw [← List.drop_drop, recordBytes_drop_type, List.drop_left]

end Record

/-- A further chunk's record goes at the end of the file (R26). -/
theorem fileBytes_append_chunk (chunks : List (Word × List Byte)) (t : Word) (data : List Byte) :
    fileBytes (chunks ++ [(t, data)]) = fileBytes chunks ++ chunkRecord t data := by
  simp only [fileBytes, List.flatMap_append, List.flatMap_singleton, List.append_assoc]

/-- The checksum of "IEND" alone, which R28 prints. -/
theorem crc32_iend : crc32 (coveredBytes 0x49454E44#32 []) = 0xAE426082#32 := by decide +kernel

end Sys2Proof.Machine

open Sys2Proof Sys2Proof.Machine

/-- Settles O37: the fields are those of `recordBytes` for any stored CRC; the length field's number is
`bigEndian_byteOf` of a length below 2^32; the IEND record is serialised from its checksum, `crc32_iend`. -/
theorem streamNumbersAreBigEndian : Obligations.StreamNumbersAreBigEndian := by
  refine ⟨wordOf_toNat, ?wire, ?record, length_recordBytes, ?signature, fileBytes_append_chunk, crc32_iend, ?iend⟩
  case wire =>
    intro F
    rw [wireBytes, byteOf_zero, byteOf_one, byteOf_two, byteOf_three]
  case record =>
    intro t data hlen
    exact ⟨_, _, _, _, recordBytes_take_length .., (bigEndian_byteOf _).trans (toNat_lengthField hlen),
      recordBytes_type .., recordBytes_data .., recordBytes_crc .., length_recordBytes ..⟩
  case signature => rfl
  case iend =>
    rw [chunkRecord, crc32_iend]
    decide

end

section
/-! PROOFS. Decoding by the rows of the opcode table (`30_encoding.md` R43, R44): the row with a word's opcode fixes the
format, the format fixes which bits are reserved, and a word decodes exactly when there is such a row and its reserved bits
are zero. -/

namespace Sys2Proof

/-! ## Reserved bits, as a condition and as a mask -/

/-- The reserved bits of the format are zero in this immediate field (R41, R44 (b) to (d)). -/
def Format.Accepts (imm : Word) : Format → Prop
  | .n => imm = 0#32
  | .b => imm.extractLsb' 8 24 = 0#24
  | .k => imm.extractLsb' 2 30 = 0#30
  | .w => True

/-- The reserved bits of the format, as the masks of R43 have them in their low 32 bits. -/
def Format.reservedMask : Format → Word
  | .n => 0xFFFFFFFF#32
  | .b => 0xFFFFFF00#32
  | .k => 0xFFFFFFFC#32
  | .w => 0x00000000#32

/-- The upper `m` bits are zero exactly when masking with ones there leaves nothing. -/
theorem extractLsb'_eq_zero_iff_and {m n : Nat} (x : BitVec (m + n)) :
    x.extractLsb' n m = 0#m ↔ x &&& (BitVec.allOnes m ++ 0#n) = 0#(m + n) := by
  have hand : x &&& (BitVec.allOnes m ++ 0#n) = x.extractLsb' n m ++ 0#n := by
    conv_lhs => rw [← BitVec.extractLsb'_append_extractLsb' (x := x)]
    rw [BitVec.and_append, BitVec.and_allOnes, BitVec.and_zero]
  rw [hand]
  constructor
  · intro h
    rw [h, BitVec.zero_append_zero]
  · intro h
    have hupper : (x.extractLsb' n m ++ 0#n).extractLsb' n m = x.extractLsb' n m := BitVec.extractLsb'_append_eq_left
    rw [← hupper, h, BitVec.extractLsb'_zero]

/-- The mask of a format selects its reserved bits and no others. -/
theorem Format.accepts_iff_mask (f : Format) (imm : Word) : f.Accepts imm ↔ imm &&& f.reservedMask = 0#32 := by
  cases f with
  | n => rw [show Format.n.reservedMask = BitVec.allOnes 32 from rfl, BitVec.and_allOnes, Format.Accepts]
  | b => exact extractLsb'_eq_zero_iff_and (m := 24) (n := 8) imm
  | k => exact extractLsb'_eq_zero_iff_and (m := 30) (n := 2) imm
  | w => rw [Format.reservedMask, BitVec.and_zero, Format.Accepts]; exact ⟨fun _ => rfl, fun _ => trivial⟩

/-! ## The rows, by their fields -/

/-- A row's `match` is its opcode over zeros, its `mask` the whole opcode over the reserved bits of its format (R43). -/
theorem opcodeTable_fields : ∀ row ∈ opcodeTable,
    row.pattern = mkCmd row.op 0#32 ∧ row.mask = mkCmd 0xFF#8 row.format.reservedMask := by decide

/-- Matching a row is having its opcode and zeros in the reserved bits of its format (R43). -/
theorem OpcodeRow.and_mask_eq_pattern_iff {row : OpcodeRow} (hrow : row ∈ opcodeTable) (cmd : CmdWord) :
    cmd &&& row.mask = row.pattern ↔ cmdOp cmd = row.op ∧ row.format.Accepts (cmdImm cmd) := by
  obtain ⟨hpattern, hmask⟩ := opcodeTable_fields row hrow
  have hand : cmd &&& row.mask = mkCmd (cmdOp cmd) (cmdImm cmd &&& row.format.reservedMask) := by
    rw [hmask]
    conv_lhs => rw [← mkCmd_cmdOp_cmdImm cmd]
    rw [mkCmd_and, show (0xFF#8 : Byte) = BitVec.allOnes 8 from rfl, BitVec.and_allOnes]
  rw [hand, hpattern, Format.accepts_iff_mask]
  exact ⟨mkCmd_inj, fun ⟨hop, himm⟩ => by rw [hop, himm]⟩

/-- No two rows have the same opcode (R43). -/
theorem opcodeTable_op_injective {row row' : OpcodeRow} (hrow : row ∈ opcodeTable) (hrow' : row' ∈ opcodeTable)
    (hop : row.op = row'.op) : row = row' :=
  List.inj_on_of_nodup_map (f := OpcodeRow.op) (by decide) hrow hrow' hop

/-! ## Decoding -/

/-- `d` is what a decoder answers for a word of the command `m` in format `f`: the command when the reserved bits are zero,
a rejection when they are not. -/
def Format.Answers (f : Format) (imm : Word) (m : Mnemonic) (d : Except DecodeReject Instr) : Prop :=
  (f.Accepts imm ∧ ∃ i, d = .ok i ∧ i.mnemonic = m) ∨ (¬ f.Accepts imm ∧ ∃ e, d = .error e)

theorem formatN_answers (i : Instr) (imm : Word) : Format.n.Answers imm i.mnemonic (formatN i imm) := by
  by_cases h : imm = 0#32
  · exact .inl ⟨h, i, if_pos h, rfl⟩
  · exact .inr ⟨h, _, if_neg h⟩

theorem formatB_answers {f : Byte → Instr} {m : Mnemonic} (hf : ∀ b, (f b).mnemonic = m) (imm : Word) :
    Format.b.Answers imm m (formatB f imm) := by
  by_cases h : imm.extractLsb' 8 24 = 0#24
  · exact .inl ⟨h, _, if_pos h, hf _⟩
  · exact .inr ⟨h, _, if_neg h⟩

theorem formatK_answers {f : ByteIndex → Instr} {m : Mnemonic} (hf : ∀ k, (f k).mnemonic = m) (imm : Word) :
    Format.k.Answers imm m (formatK f imm) := by
  by_cases h : imm.extractLsb' 2 30 = 0#30
  · exact .inl ⟨h, _, if_pos h, hf _⟩
  · exact .inr ⟨h, _, if_neg h⟩

theorem formatW_answers {f : Word → Instr} {m : Mnemonic} (hf : ∀ w, (f w).mnemonic = m) (imm : Word) :
    Format.w.Answers imm m (formatW f imm) :=
  .inl ⟨trivial, _, rfl, hf imm⟩

/-- A word with the opcode of a row is decoded in that row's format to that row's command (R43, R44). -/
theorem decode_of_row {row : OpcodeRow} (hrow : row ∈ opcodeTable) {cmd : CmdWord} (hop : cmdOp cmd = row.op) :
    row.format.Answers (cmdImm cmd) row.mnemonic (decode cmd) := by
  rw [decode, hop]
  generalize cmdImm cmd = imm
  clear hop
  revert row
  simp only [opcodeTable, opcodeRowsSystemType, opcodeRowsCrc, List.forall_mem_append, List.forall_mem_cons]
  exact ⟨⟨formatN_answers .sysRst imm, formatN_answers .sysStat imm, formatW_answers (fun _ => rfl) imm,
      formatW_answers (fun _ => rfl) imm, formatB_answers (fun _ => rfl) imm, formatN_answers .typRd imm,
      formatN_answers .typFlg imm, formatW_answers (fun _ => rfl) imm, List.forall_mem_nil _⟩,
    formatN_answers .crcInit imm, formatB_answers (fun _ => rfl) imm, formatN_answers .crcType imm,
    formatN_answers .crcRd imm, formatK_answers (fun _ => rfl) imm, formatN_answers .lenRd imm,
    formatW_answers (fun _ => rfl) imm, formatB_answers (fun _ => rfl) imm, formatN_answers .expRd imm,
    formatN_answers .crcChk imm, List.forall_mem_nil _⟩

/-- A word whose opcode has no row is rejected: every opcode the decoder knows is that of a row (R44 (a)). -/
theorem decode_of_no_row {cmd : CmdWord} (h : ∀ row ∈ opcodeTable, cmdOp cmd ≠ row.op) :
    decode cmd = .error .unassignedOpcode := by
  have hknown : (cmdOp cmd).toNat ∉ opcodeTable.map fun row => row.op.toNat := by
    intro hmem
    obtain ⟨row, hrow, hop⟩ := List.mem_map.1 hmem
    exact h row hrow (BitVec.eq_of_toNat_eq hop.symm)
  unfold decode
  split
  case h_19 => rfl
  all_goals
    next hop => exact absurd (by rw [hop]; decide) hknown

/-- A word decodes to a command exactly when a row with the command's mnemonic has its opcode and accepts its reserved
bits (R43). -/
theorem decode_ok_iff (cmd : CmdWord) (m : Mnemonic) : (∃ i, decode cmd = .ok i ∧ i.mnemonic = m) ↔
    ∃ row ∈ opcodeTable, row.mnemonic = m ∧ cmdOp cmd = row.op ∧ row.format.Accepts (cmdImm cmd) := by
  constructor
  · rintro ⟨i, hi, rfl⟩
    by_cases hrow : ∃ row ∈ opcodeTable, cmdOp cmd = row.op
    · obtain ⟨row, hmem, hop⟩ := hrow
      rcases decode_of_row hmem hop with ⟨hacc, j, hj, hm⟩ | ⟨-, e, he⟩
      · obtain rfl : i = j := Except.ok.inj (hi.symm.trans hj)
        exact ⟨row, hmem, hm.symm, hop, hacc⟩
      · rw [hi] at he; cases he
    · rw [decode_of_no_row (by simpa using hrow)] at hi; cases hi
  · rintro ⟨row, hmem, rfl, hop, hacc⟩
    rcases decode_of_row hmem hop with ⟨-, hok⟩ | ⟨hrej, -⟩
    · exact hok
    · exact absurd hacc hrej

end Sys2Proof

open Sys2Proof Sys2Proof.Machine

/-- Settles O14: matching a row is having its opcode and accepted reserved bits, which is what the decoder asks for
(`decode_ok_iff`); two rows matched by one word have one opcode, so they are one row. -/
theorem decodingIsMatchingARow : Obligations.DecodingIsMatchingARow := by
  refine ⟨rfl, ?decoded, ?matched, ?disjoint⟩
  case decoded =>
    intro cmd i hi
    obtain ⟨row, hrow, hm, hfields⟩ := (decode_ok_iff cmd i.mnemonic).1 ⟨i, hi, rfl⟩
    exact ⟨row, hrow, hm, (OpcodeRow.and_mask_eq_pattern_iff hrow cmd).2 hfields⟩
  case matched =>
    intro cmd row hrow hmatch
    exact (decode_ok_iff cmd row.mnemonic).2 ⟨row, hrow, rfl, (OpcodeRow.and_mask_eq_pattern_iff hrow cmd).1 hmatch⟩
  case disjoint =>
    intro cmd row hrow row' hrow' hmatch hmatch'
    obtain ⟨hop, -⟩ := (OpcodeRow.and_mask_eq_pattern_iff hrow cmd).1 hmatch
    obtain ⟨hop', -⟩ := (OpcodeRow.and_mask_eq_pattern_iff hrow' cmd).1 hmatch'
    exact opcodeTable_op_injective hrow hrow' (hop.symm.trans hop')

end

section
/-! PROOFS. The four classes of illegal words (`30_encoding.md` R44), and that running a command does not depend on the
host's schedule. -/

namespace Sys2Proof

/-- The opcodes of the commands of a format, as R44 lists them. -/
def Format.opcodes : Format → List Nat
  | .n => [0x01, 0x02, 0x13, 0x14, 0x20, 0x22, 0x23, 0x25, 0x2A, 0x2B]
  | .b => [0x12, 0x21, 0x29]
  | .k => [0x24]
  | .w => [0x10, 0x11, 0x15, 0x28]

/-- The list of a format holds the opcodes of the table's rows of that format (R43). -/
theorem Format.mem_opcodes_iff (f : Format) (op : Byte) :
    op.toNat ∈ f.opcodes ↔ ∃ row ∈ opcodeTable, row.format = f ∧ op = row.op := by
  have hlist : f.opcodes = (opcodeTable.filter fun row => row.format = f).map fun row => row.op.toNat := by
    cases f <;> decide
  rw [hlist]
  simp only [List.mem_map, List.mem_filter, decide_eq_true_eq, BitVec.toNat_inj, and_assoc, eq_comm (a := op)]

/-- Class (a) of R44, by the ranges the rule gives. -/
def UnassignedOpcode (op : Nat) : Prop :=
  op = 0x00 ∨ (0x03 ≤ op ∧ op ≤ 0x0F) ∨ (0x16 ≤ op ∧ op ≤ 0x1F) ∨ op = 0x26 ∨ op = 0x27 ∨ (0x2C ≤ op ∧ op ≤ 0xFF)

/-- The ranges of class (a) leave out the opcodes of the four formats and nothing else. -/
theorem unassignedOpcode_iff (op : Byte) : UnassignedOpcode op.toNat ↔ ∀ f : Format, op.toNat ∉ f.opcodes := by
  have hformats : (∀ f : Format, op.toNat ∉ f.opcodes) ↔
      op.toNat ∉ Format.n.opcodes ∧ op.toNat ∉ Format.b.opcodes ∧ op.toNat ∉ Format.k.opcodes ∧
        op.toNat ∉ Format.w.opcodes :=
    ⟨fun h => ⟨h .n, h .b, h .k, h .w⟩, fun ⟨hn, hb, hk, hw⟩ f => by cases f <;> assumption⟩
  have hlt : op.toNat < 256 := op.isLt
  rw [hformats]
  simp only [UnassignedOpcode, Format.opcodes, List.mem_cons, List.not_mem_nil, or_false]
  omega

/-- A word is rejected when no format has its opcode, or when the format that has it does not accept its reserved bits. -/
theorem decode_error_iff (cmd : CmdWord) : (∃ e, decode cmd = .error e) ↔
    UnassignedOpcode (cmdOp cmd).toNat ∨
      ∃ f : Format, (cmdOp cmd).toNat ∈ f.opcodes ∧ ¬ f.Accepts (cmdImm cmd) := by
  by_cases hrow : ∃ row ∈ opcodeTable, cmdOp cmd = row.op
  · obtain ⟨row, hmem, hop⟩ := hrow
    have hassigned : ¬ UnassignedOpcode (cmdOp cmd).toNat := fun h =>
      (unassignedOpcode_iff _).1 h row.format ((Format.mem_opcodes_iff ..).2 ⟨row, hmem, rfl, hop⟩)
    have hformat : (∃ f : Format, (cmdOp cmd).toNat ∈ f.opcodes ∧ ¬ f.Accepts (cmdImm cmd)) ↔
        ¬ row.format.Accepts (cmdImm cmd) := by
      constructor
      · rintro ⟨f, hf, hrej⟩
        obtain ⟨row', hmem', rfl, hop'⟩ := (Format.mem_opcodes_iff ..).1 hf
        rwa [opcodeTable_op_injective hmem hmem' (hop.symm.trans hop')]
      · intro hrej
        exact ⟨row.format, (Format.mem_opcodes_iff ..).2 ⟨row, hmem, rfl, hop⟩, hrej⟩
    rw [hformat, or_iff_right hassigned]
    rcases decode_of_row hmem hop with ⟨hacc, i, hi, -⟩ | ⟨hrej, he⟩
    · simp [hi, hacc]
    · exact iff_of_true he hrej
  · have hnone : ∀ row ∈ opcodeTable, cmdOp cmd ≠ row.op := by simpa using hrow
    refine iff_of_true ⟨_, decode_of_no_row hnone⟩ (.inl ((unassignedOpcode_iff _).2 fun f hf => ?_))
    obtain ⟨row, hmem, -, hop⟩ := (Format.mem_opcodes_iff ..).1 hf
    exact hnone row hmem hop

/-- The classes (b), (c) and (d) of R44: format W has no reserved bits. -/
theorem exists_format_rejects_iff (op : Nat) (imm : Word) : (∃ f : Format, op ∈ f.opcodes ∧ ¬ f.Accepts imm) ↔
    (op ∈ Format.n.opcodes ∧ imm ≠ 0#32) ∨ (op ∈ Format.b.opcodes ∧ imm.extractLsb' 8 24 ≠ 0#24) ∨
      (op = 0x24 ∧ imm.extractLsb' 2 30 ≠ 0#30) := by
  constructor
  · rintro ⟨f, hop, hrej⟩
    cases f with
    | n => exact .inl ⟨hop, hrej⟩
    | b => exact .inr (.inl ⟨hop, hrej⟩)
    | k => exact .inr (.inr ⟨List.mem_singleton.1 hop, hrej⟩)
    | w => exact absurd trivial hrej
  · rintro (⟨hop, hrej⟩ | ⟨hop, hrej⟩ | ⟨hop, hrej⟩)
    · exact ⟨.n, hop, hrej⟩
    · exact ⟨.b, hop, hrej⟩
    · exact ⟨.k, List.mem_singleton.2 hop, hrej⟩

end Sys2Proof

namespace Sys2Proof.Machine

/-- Every command executes, and what it does does not depend on what the host does next: the schedule stays as it was. -/
theorem exec_withInput (i : Instr) (s : State) : ∃ t, exec i s = .next t ∧ t.input = s.input ∧
    ∀ l, exec i { s with input := l } = .next { t with input := l } := by
  cases i
  case typLds w =>
    simp only [exec, execTypLds]
    split <;> exact ⟨_, rfl, rfl, fun _ => rfl⟩
  case crcChk =>
    simp only [exec, execCrcChk]
    split <;> exact ⟨_, rfl, rfl, fun _ => rfl⟩
  all_goals exact ⟨_, rfl, rfl, fun _ => rfl⟩

end Sys2Proof.Machine

open Sys2Proof Sys2Proof.Machine

/-- Settles O15: the four classes are the words the decoder rejects (`decode_error_iff`), and an accepted word's step is
`runCommand`, which raises IllegalCommand for these and executes the others. -/
theorem illegalWordsAreTheFourClasses : Obligations.IllegalWordsAreTheFourClasses := by
  intro s cmd rest hinput hrsp op imm classA classB classC classD
  have hclasses : (classA ∨ classB ∨ classC ∨ classD) ↔ ∃ e, decode cmd = .error e := by
    rw [decode_error_iff, exists_format_rejects_iff]; rfl
  rw [hclasses, step_ready hinput hrsp]
  rcases runCommand_cases cmd { s with input := rest } with ⟨i, hi, hrun⟩ | ⟨e, he, hrun⟩
  · have hlegal : ¬ ∃ e, decode cmd = .error e := by simp [hi]
    obtain ⟨t, ht, -, hwith⟩ := exec_withInput i s
    exact ⟨fun h => absurd h hlegal, fun _ => ⟨i, t, _, hi, ht, hrun.trans (hwith rest), rfl, rfl⟩⟩
  · exact ⟨fun _ => ⟨_, hrun, rfl, rfl⟩, fun h => absurd ⟨e, he⟩ h⟩

end

section
/-! PROOFS. Running a sequence of commands (`20_memory.md` R34, `70_reset_and_hazards.md` R108), one command at a time, and
the pseudo-instructions, which are such sequences (`30_encoding.md` R49). -/

namespace Sys2Proof

/-- Every command is read back from its word, format by format (R41 to R43). -/
theorem decode_encode (i : Instr) : decode (encode i) = .ok i := by
  cases i
  case typLd | typLds | typEq | expLd => simp [encode, encodeW, decode, formatW]
  case typPush | crcByte | expPush => simp [encode, encodeB, decode, formatB_operand]
  case crcRdb => simp [encode, encodeK, decode, formatK_operand]
  all_goals simp [encode, encodeN, decode, formatN_zero]

end Sys2Proof

namespace Sys2Proof.Machine

/-! ## Runs -/

/-- No command, no step. -/
theorem runInstrs_nil (s : State) : runInstrs [] s = .next s := rfl

/-- Every command word is answered, and what it does does not depend on what the host does next. -/
theorem runCommand_withInput (cmd : CmdWord) (s : State) : ∃ t, runCommand cmd s = .next t ∧ t.input = s.input ∧
    ∀ l, runCommand cmd { s with input := l } = .next { t with input := l } := by
  unfold runCommand
  cases decode cmd with
  | ok i => exact exec_withInput i s
  | error e => exact ⟨_, rfl, rfl, fun _ => rfl⟩

/-- The two steps of a word: the response before it is taken, and it is accepted (R46). -/
theorem steps_presentAll_cons (cmd : CmdWord) (ws : List CmdWord) (s : State) :
    steps 2 (s.presentAll (cmd :: ws)) = runCommand cmd (s.takeResponse.presentAll ws) := by
  have htake : step (s.presentAll (cmd :: ws)) =
      .next { s.takeResponse with input := .command cmd :: (s.presentAll ws).input } :=
    step_takes (State.nextEvent_take rfl)
  have haccept : step { s.takeResponse with input := .command cmd :: (s.presentAll ws).input } =
      runCommand cmd (s.takeResponse.presentAll ws) := step_ready rfl rfl
  obtain ⟨t, ht, -⟩ := runCommand_withInput cmd (s.takeResponse.presentAll ws)
  simp only [steps, htake, haccept, ht]

/-- The first word of a run: the response before it is taken, it runs, and the rest runs from there (R34, R46). -/
theorem runWords_cons {cmd : CmdWord} {s t : State} (h : runCommand cmd s.takeResponse = .next t) (ws : List CmdWord) :
    runWords (cmd :: ws) s = runWords ws t := by
  obtain ⟨u, hu, hinput, hwith⟩ := runCommand_withInput cmd s.takeResponse
  obtain rfl : u = t := Host.Outcome.next.inj (hu.symm.trans h)
  have htwo : steps 2 (s.presentAll (cmd :: ws)) = .next (u.presentAll ws) := by
    rw [steps_presentAll_cons, State.presentAll, hwith, State.presentAll, hinput]
  have hcount : 2 * (cmd :: ws).length = 2 + 2 * ws.length := by
    rw [List.length_cons]; omega
  rw [runWords, hcount, steps_add htwo, runWords]

/-- The same for a command, which its word is decoded to. -/
theorem runInstrs_cons {i : Instr} {s t : State} (h : exec i s.takeResponse = .next t) (is : List Instr) :
    runInstrs (i :: is) s = runInstrs is t :=
  runWords_cons (by rw [runCommand, decode_encode]; exact h) (is.map encode)

/-- A response given after the one before was taken is one more response (R34 (d)). -/
theorem State.responses_respond (s : State) (c : RspCode) (d : Word) :
    (s.respond c d).responses = s.taken ++ [⟨c, d⟩] := rfl

/-- One format B command run over a sequence of bytes, when it only updates the registers and answers 0: the updates
compose, and each command gives its own response. -/
theorem runInstrs_map_bytes {c : Byte → Instr} {update : Regs → Byte → Regs}
    (hexec : ∀ b s, exec (c b) s = .next (State.respond { s with regs := update s.regs b } .ok 0#32))
    (bs : List Byte) (s : State) : ∃ t, runInstrs (bs.map c) s = .next t ∧
      t.regs = bs.foldl update s.regs ∧ t.responses = s.responses ++ List.replicate bs.length ⟨.ok, 0#32⟩ := by
  induction bs generalizing s with
  | nil => exact ⟨s, runInstrs_nil s, rfl, (List.append_nil _).symm⟩
  | cons b bs ih =>
    obtain ⟨t, hrun, hregs, hresponses⟩ :=
      ih (State.respond { s.takeResponse with regs := update s.takeResponse.regs b } .ok 0#32)
    refine ⟨t, (runInstrs_cons (hexec b _) _).trans hrun, hregs, ?_⟩
    rw [hresponses, State.responses_respond, List.append_assoc, List.length_cons, List.replicate_succ]
    rfl

/-- What CRC.BYTE does to the registers (R72). -/
def Regs.feedByte (r : Regs) (b : Byte) : Regs := { r with crc := crcByte r.crc b, len := r.len + 1#32 }

/-- What TYP.PUSH does to the registers (R60). -/
def Regs.shiftType (r : Regs) (b : Byte) : Regs := { r with type := shiftInByte r.type b }

/-- What EXP.PUSH does to the registers (R78). -/
def Regs.shiftExpect (r : Regs) (b : Byte) : Regs := { r with expect := shiftInByte r.expect b }

theorem exec_crcByte (b : Byte) (s : State) :
    exec (.crcByte b) s = .next (State.respond { s with regs := s.regs.feedByte b } .ok 0#32) := rfl

theorem exec_typPush (b : Byte) (s : State) :
    exec (.typPush b) s = .next (State.respond { s with regs := s.regs.shiftType b } .ok 0#32) := rfl

theorem exec_expPush (b : Byte) (s : State) :
    exec (.expPush b) s = .next (State.respond { s with regs := s.regs.shiftExpect b } .ok 0#32) := rfl

/-! ## Four bytes shifted in -/

/-- Shifting a byte in drops the top byte and moves the others up (R60). -/
theorem shiftInByte_toNat (w : Word) (b : Byte) : (shiftInByte w b).toNat = w.toNat % 2 ^ 24 * 2 ^ 8 + b.toNat := by
  rw [shiftInByte, toNat_append_byte, BitVec.extractLsb'_toNat, Nat.shiftRight_zero]

/-- Four bytes shifted in leave nothing of the old word and stand in wire order (R9, R60, R78). -/
theorem shiftInByte_four (w : Word) (b0 b1 b2 b3 : Byte) :
    shiftInByte (shiftInByte (shiftInByte (shiftInByte w b0) b1) b2) b3 = wordOf b0 b1 b2 b3 := by
  apply BitVec.eq_of_toNat_eq
  simp only [shiftInByte_toNat, wordOf_toNat]
  omega

/-- Four TYP.PUSH load `TYPE` with the word of their bytes, each with its own response. -/
theorem runInstrs_pushType (s : State) (b0 b1 b2 b3 : Byte) : ∃ t, runInstrs (pushType b0 b1 b2 b3) s = .next t ∧
    t.regs = { s.regs with type := wordOf b0 b1 b2 b3 } ∧
    t.responses = s.responses ++ List.replicate 4 ⟨.ok, 0#32⟩ := by
  obtain ⟨t, hrun, hregs, hresponses⟩ := runInstrs_map_bytes exec_typPush [b0, b1, b2, b3] s
  refine ⟨t, hrun, hregs.trans ?_, hresponses⟩
  rw [← shiftInByte_four s.regs.type]; rfl

/-- Four EXP.PUSH load `EXPECT` with the word of their bytes, each with its own response. -/
theorem runInstrs_pushExpect (s : State) (b0 b1 b2 b3 : Byte) : ∃ t, runInstrs (pushExpect b0 b1 b2 b3) s = .next t ∧
    t.regs = { s.regs with expect := wordOf b0 b1 b2 b3 } ∧
    t.responses = s.responses ++ List.replicate 4 ⟨.ok, 0#32⟩ := by
  obtain ⟨t, hrun, hregs, hresponses⟩ := runInstrs_map_bytes exec_expPush [b0, b1, b2, b3] s
  refine ⟨t, hrun, hregs.trans ?_, hresponses⟩
  rw [← shiftInByte_four s.regs.expect]; rfl

/-! ## What the assembler reads -/

/-- Operands in range are read one by one (R48). -/
theorem asmBytes_of_map {os : List AsmOperand} {bs : List Byte} (h : os.map asmByte = bs.map some) :
    asmBytes os = some bs := by
  induction os generalizing bs with
  | nil =>
    obtain rfl : bs = [] := List.map_eq_nil_iff.1 h.symm
    rfl
  | cons o os ih =>
    cases bs with
    | nil => cases h
    | cons b bs =>
      obtain ⟨ho, hos⟩ := List.cons.inj h
      simp [asmBytes, ho, ih hos]

/-- The characters of R49: codes 0x20 to 0x7E, and no double quote. -/
theorem asmStrChar_iff (c : Char) : asmStrChar c = true ↔ 0x20 ≤ c.toNat ∧ c.toNat ≤ 0x7E ∧ c ≠ '"' := by
  simp [asmStrChar, printable, and_assoc]

/-- CRC.BYTES of operands in range (R49). -/
theorem assemble_crcBytes {os : List AsmOperand} {bs : List Byte} (hne : os ≠ []) (h : os.map asmByte = bs.map some) :
    assemble (.crcBytes os) = some (bs.map Instr.crcByte) := by
  obtain ⟨o, os, rfl⟩ := List.exists_cons_of_ne_nil hne
  simp [assemble, asmBytes_of_map h]

/-- CRC.STR of characters that may stand in it (R49). -/
theorem assemble_crcStr {cs : List Char} (h : ∀ c ∈ cs, asmStrChar c = true) :
    assemble (.crcStr cs) = some (cs.map fun c => .crcByte (charByte c)) := by
  rw [assemble, if_pos (List.all_eq_true.2 h)]

end Sys2Proof.Machine

open Sys2Proof Sys2Proof.Machine

/-- Settles O17: a pseudo-instruction of operands in range assembles to one format B command over its bytes, and such a
sequence runs as `runInstrs_map_bytes` says. -/
theorem pseudoInstructionsExpand : Obligations.PseudoInstructionsExpand := by
  refine ⟨?crcBytes, ?crcStr, ?fourBytes, ?fourPushes⟩
  case crcBytes =>
    intro os bs hne hos
    refine ⟨assemble_crcBytes hne hos, fun s => ?_⟩
    obtain ⟨t, hrun, -, hresponses⟩ := runInstrs_map_bytes exec_crcByte bs s
    have hlength : os.length = bs.length := by simpa using congrArg List.length hos
    exact ⟨t, hrun, hlength ▸ hresponses⟩
  case crcStr =>
    intro cs hcs
    refine ⟨assemble_crcStr fun c hc => (asmStrChar_iff c).2 (hcs c hc), fun s => ?_⟩
    obtain ⟨t, hrun, -, hresponses⟩ := runInstrs_map_bytes exec_crcByte (cs.map charByte) s
    rw [List.map_map] at hrun
    rw [List.length_map] at hresponses
    exact ⟨t, hrun, hresponses⟩
  case fourBytes =>
    intro o0 o1 o2 o3 b0 b1 b2 b3 h0 h1 h2 h3
    have hbytes : asmBytes [o0, o1, o2, o3] = some [b0, b1, b2, b3] := asmBytes_of_map (by simp [h0, h1, h2, h3])
    simp [assemble, hbytes]
  case fourPushes =>
    intro s b0 b1 b2 b3
    exact ⟨runInstrs_pushType s b0 b1 b2 b3, runInstrs_pushExpect s b0 b1 b2 b3⟩

end

section
/-! PROOFS. The chunk-type decoder (`40_chunk_type.md` R50 to R57): the bit or the range each flag reads, and the flags word
that holds the six of them. -/

namespace Sys2Proof.Machine

/-! ## The six flags -/

theorem crit_eq (t : Word) : crit t = !t.getLsbD 29 := by
  rw [crit, byteOf_zero, BitVec.getLsbD_extractLsb']; rfl

theorem pub_eq (t : Word) : pub t = !t.getLsbD 21 := by
  rw [pub, byteOf_one, BitVec.getLsbD_extractLsb']; rfl

theorem rsvok_eq (t : Word) : rsvok t = !t.getLsbD 13 := by
  rw [rsvok, byteOf_two, BitVec.getLsbD_extractLsb']; rfl

theorem safe_eq (t : Word) : safe t = t.getLsbD 5 := by
  rw [safe, byteOf_three, BitVec.getLsbD_extractLsb']; rfl

/-- The two ranges of letters (R54), in the unsigned order of bytes. -/
theorem isAlpha_iff (b : Byte) : isAlpha b = true ↔ (0x41#8 ≤ b ∧ b ≤ 0x5A#8) ∨ (0x61#8 ≤ b ∧ b ≤ 0x7A#8) := by
  simp only [isAlpha, Bool.or_eq_true, Bool.and_eq_true, decide_eq_true_eq, BitVec.le_def, BitVec.toNat_ofNat]

/-- The letters lie below 0x80 (R54). -/
theorem isAlpha_eq_false_of_bit7 {b : Byte} (h : b.getLsbD 7 = true) : isAlpha b = false := by
  by_contra hne
  have hletter : b ≤ 0x7A#8 := by
    rcases (isAlpha_iff b).1 (Bool.eq_true_of_not_eq_false hne) with ⟨-, hb⟩ | ⟨-, hb⟩
    · exact BitVec.le_trans hb (by decide)
    · exact hb
  have hlt : b.toNat < 2 ^ 7 := Nat.lt_of_le_of_lt (BitVec.le_def.1 hletter) (by decide)
  have hbit : b.getLsbD 7 = false := Nat.testBit_lt_two_pow hlt
  rw [hbit] at h
  cases h

/-- The four byte indices (R9). -/
theorem forall_byteIndex {p : ByteIndex → Prop} : (∀ k, p k) ↔ p 0#2 ∧ p 1#2 ∧ p 2#2 ∧ p 3#2 := by
  constructor
  · intro h
    exact ⟨h _, h _, h _, h _⟩
  · rintro ⟨h0, h1, h2, h3⟩ k
    have hk : k = 0#2 ∨ k = 1#2 ∨ k = 2#2 ∨ k = 3#2 := by revert k; decide
    rcases hk with rfl | rfl | rfl | rfl <;> assumption

/-- ALPHA asks all four bytes (R54). -/
theorem alpha_iff (t : Word) : alpha t = true ↔ ∀ k : ByteIndex, isAlpha (byteOf t k) = true := by
  rw [forall_byteIndex]
  simp only [alpha, Bool.and_eq_true, and_assoc]

/-- One byte that is no letter takes ALPHA away (R54). -/
theorem alpha_eq_false_of_byte {t : Word} (h : ∃ k : ByteIndex, isAlpha (byteOf t k) = false) : alpha t = false := by
  obtain ⟨k, hk⟩ := h
  refine Bool.eq_false_iff.2 fun halpha => ?_
  rw [(alpha_iff t).1 halpha k] at hk
  cases hk

theorem valid_iff (t : Word) : valid t = true ↔ alpha t = true ∧ rsvok t = true := by
  rw [valid, Bool.and_eq_true]

/-- No type is valid without ALPHA (R55). -/
theorem valid_eq_false_of_alpha {t : Word} (h : alpha t = false) : valid t = false := by
  rw [valid, h, Bool.false_and]

/-! ## The flags word -/

/-- `b2i` is the number 0 or 1 (R11). -/
theorem boolWord_toNat (p : Bool) : (boolWord p).toNat = p.toNat := by
  cases p <;> rfl

/-- The sum of R57 has no carry out of the word: it is below 64. -/
theorem flags_toNat (t : Word) :
    (flags t).toNat = (crit t).toNat + 2 * (pub t).toNat + 4 * (rsvok t).toNat + 8 * (safe t).toNat
      + 16 * (alpha t).toNat + 32 * (valid t).toNat := by
  have hcrit := Bool.toNat_le (crit t)
  have hpub := Bool.toNat_le (pub t)
  have hrsvok := Bool.toNat_le (rsvok t)
  have hsafe := Bool.toNat_le (safe t)
  have halpha := Bool.toNat_le (alpha t)
  have hvalid := Bool.toNat_le (valid t)
  simp only [flags, BitVec.toNat_add, BitVec.toNat_mul, BitVec.toNat_ofNat, boolWord_toNat]
  omega

/-- The table of R57: the weights are the powers of 2 in order, so the sum is the fields side by side, VALID on top. -/
theorem flags_eq_fields (t : Word) : flags t =
    ((((((0#26).concat (valid t)).concat (alpha t)).concat (safe t)).concat (rsvok t)).concat (pub t)).concat (crit t) := by
  apply BitVec.eq_of_toNat_eq
  simp only [flags_toNat, BitVec.toNat_concat, BitVec.toNat_ofNat]
  omega

/-- Bits 31:6 of the flags word (R57). -/
theorem flags_getLsbD_of_ge (t : Word) {n : Nat} (h : 6 ≤ n) : (flags t).getLsbD n = false := by
  obtain ⟨m, rfl⟩ := Nat.exists_eq_add_of_le' h
  rw [flags_eq_fields]
  simp only [BitVec.getLsbD_concat_succ, BitVec.getLsbD_zero]

end Sys2Proof.Machine

open Sys2Proof Sys2Proof.Machine

/-- Settles O38: each flag is one bit of its byte, a letter is below 0x80, and ALPHA asks the four byte indices. -/
theorem decodedFlagsReadTheirBits : Obligations.DecodedFlagsReadTheirBits :=
  ⟨crit_eq, pub_eq, rsvok_eq, safe_eq, isAlpha_iff, fun _ => isAlpha_eq_false_of_bit7, alpha_iff, valid_iff⟩

/-- Settles O39: the sum does not overflow (`flags_toNat`), and the bits are read off the fields (`flags_eq_fields`). -/
theorem flagsWordLayout : Obligations.FlagsWordLayout := by
  intro t
  refine ⟨flags_toNat t, ?_, ?_, ?_, ?_, ?_, ?_, fun n => flags_getLsbD_of_ge t⟩
  all_goals
    rw [flags_eq_fields]
    simp only [BitVec.getLsbD_concat_succ, BitVec.getLsbD_concat_zero]

end

section
/-! PROOFS. The chunk-type commands (`40_chunk_type.md` R58 to R63): what each answers, as equations of `exec`. -/

namespace Sys2Proof.Machine

/-- R58. -/
theorem exec_typLd (w : Word) (s : State) : exec (.typLd w) s = .next ((s.setType w).respond .ok 0#32) := rfl

/-- R59, four letters. -/
theorem exec_typLds_of_alpha {w : Word} (h : alpha w = true) (s : State) :
    exec (.typLds w) s = .next ((s.setType w).respond .ok 0#32) := by
  simp [exec, execTypLds, h]

/-- R59, a byte that is no letter. -/
theorem exec_typLds_of_not_alpha {w : Word} (h : alpha w = false) (s : State) :
    exec (.typLds w) s = .next (s.raise .formatError w) := by
  simp [exec, execTypLds, h, State.raiseFormatError]

/-- R61. -/
theorem exec_typRd (s : State) : exec .typRd s = .next (s.respond .ok s.regs.type) := rfl

/-- R63, the type is the operand. -/
theorem exec_typEq_of_eq {w : Word} {s : State} (h : s.regs.type = w) :
    exec (.typEq w) s = .next (s.respond .ok 1#32) := by
  simp [exec, execTypEq, boolWord, h]

/-- R63, the type is not the operand. -/
theorem exec_typEq_of_ne {w : Word} {s : State} (h : s.regs.type ≠ w) :
    exec (.typEq w) s = .next (s.respond .ok 0#32) := by
  simp [exec, execTypEq, boolWord, h]

/-- The two forms of R60: the lower three bytes with the new one below, and the word shifted up with the byte put in. -/
theorem shiftInByte_eq_shiftLeft_or (w : Word) (b : Byte) : shiftInByte w b = (w <<< 8) ||| b.setWidth 32 := by
  apply BitVec.eq_of_getLsbD_eq
  intro i hi
  simp only [shiftInByte, BitVec.getLsbD_append, BitVec.getLsbD_extractLsb', BitVec.getLsbD_or, BitVec.getLsbD_shiftLeft,
    BitVec.getLsbD_setWidth, Nat.zero_add]
  by_cases hlow : i < 8
  · simp [hlow, hi]
  · have hmid : i - 8 < 24 := by omega
    have habove : b.getLsbD i = false := BitVec.getLsbD_of_ge b i (by omega)
    simp [hlow, hi, hmid, habove]

end Sys2Proof.Machine

open Sys2Proof Sys2Proof.Machine

/-- Settles O21: the state is `exec_typLd`; the stored type is the operand, so a byte of it that is no letter shows. -/
theorem typLdStoresAnyWord : Obligations.TypLdStoresAnyWord := by
  intro w
  refine ⟨rfl, decode_encode (.typLd w), exec_typLd w, ?flags⟩
  intro hbyte s t hexec
  obtain rfl := Host.Outcome.next.inj ((exec_typLd w s).symm.trans hexec)
  have halpha : alpha w = false := alpha_eq_false_of_byte hbyte
  exact ⟨rfl, halpha, valid_eq_false_of_alpha halpha⟩

/-- Settles O22: the two outcomes are those of ALPHA of the operand, which asks its four bytes. -/
theorem typLdsStoresFourLettersOrFaults : Obligations.TypLdsStoresFourLettersOrFaults := by
  intro w
  refine ⟨rfl, decode_encode (.typLds w), fun s => ⟨fun hletters => ?_, fun hbyte => ?_⟩⟩
  · exact exec_typLds_of_alpha ((alpha_iff w).2 hletters) s
  · exact exec_typLds_of_not_alpha (alpha_eq_false_of_byte hbyte) s

/-- Settles O23: one push is `exec_typPush` in its shift-and-or form, four are `runInstrs_pushType`. -/
theorem typPushShiftsAByteIn : Obligations.TypPushShiftsAByteIn := by
  refine ⟨fun b => ⟨rfl, decode_encode (.typPush b), fun s => ?_⟩, fun s t0 t1 t2 t3 => ?_⟩
  · rw [exec_typPush, Regs.shiftType, shiftInByte_eq_shiftLeft_or]; rfl
  · obtain ⟨u, hrun, hregs, -⟩ := runInstrs_pushType s t0 t1 t2 t3
    exact ⟨u, hrun, hregs⟩

/-- Settles O24: the response is the stored type, and TYP.LD has stored its operand. -/
theorem typRdReadsTheType : Obligations.TypRdReadsTheType := by
  refine ⟨rfl, decode_encode .typRd, exec_typRd, ?afterLoad⟩
  intro w s t hexec
  obtain rfl := Host.Outcome.next.inj ((exec_typLd w s).symm.trans hexec)
  exact exec_typRd _

/-- Settles O25: the response is `exec_typFlg` in every state; the five examples of R62 are computed. -/
theorem typFlgReadsTheDecodedFlags : Obligations.TypFlgReadsTheDecodedFlags :=
  ⟨rfl, decode_encode .typFlg, exec_typFlg, by decide, by decide, by decide, by decide, flags_zero⟩

/-- Settles O26: the comparison is equality of the two words. -/
theorem typEqComparesAllBits : Obligations.TypEqComparesAllBits :=
  fun w => ⟨rfl, decode_encode (.typEq w), fun _ => ⟨exec_typEq_of_eq, exec_typEq_of_ne⟩⟩

end

section
/-! PROOFS. The checksum (`41_crc.md` R66 to R70): eight bit steps are linear over xor and shift out zeros, which gives the
table form; the accumulator of a sequence of bytes. -/

namespace Sys2Proof.Machine

/-! ## Bit steps -/

/-- R67: the byte step is eight bit steps. -/
theorem crcByte_eq_iterate (c : Word) (b : Byte) : crcByte c b = crcBit^[8] (c ^^^ zextByte b) := rfl

/-- R70: a table entry is eight bit steps from its index. -/
theorem crcTable_eq_iterate (i : Byte) : crcTable i = crcBit^[8] (zextByte i) := by
  rw [crcTable, crcByte_eq_iterate, BitVec.zero_xor]

/-- The bit step as a sum over GF(2): the shift, and the polynomial as many times as bit 0 says (R66). -/
theorem crcBit_eq_xor (c : Word) : crcBit c = (c >>> 1) ^^^ (if c.getLsbD 0 then crcPolyR else 0#32) := by
  rw [crcBit]
  split
  · rfl
  · exact BitVec.xor_zero.symm

/-- The bit step is linear over xor (R82 (c)): the shift is, and the polynomial enters twice when both bits 0 are set. -/
theorem crcBit_xor (c d : Word) : crcBit (c ^^^ d) = crcBit c ^^^ crcBit d := by
  have hpoly (p q : Bool) : (if (p ^^ q) then crcPolyR else 0#32) =
      (if p then crcPolyR else 0#32) ^^^ (if q then crcPolyR else 0#32) := by
    cases p <;> cases q <;> rfl
  simp only [crcBit_eq_xor, BitVec.ushiftRight_xor_distrib, BitVec.getLsbD_xor, hpoly]
  ac_rfl

theorem crcBit_iterate_xor (n : Nat) (c d : Word) : crcBit^[n] (c ^^^ d) = crcBit^[n] c ^^^ crcBit^[n] d :=
  Function.Semiconj₂.iterate (op := (· ^^^ ·)) crcBit_xor n c d

/-- Zeros in the lowest bits are shifted out, and the polynomial never enters. -/
theorem crcBit_iterate_of_low_zero (n : Nat) {c : Word} (h : ∀ i < n, c.getLsbD i = false) :
    crcBit^[n] c = c >>> n := by
  induction n generalizing c with
  | zero => exact (BitVec.ushiftRight_zero c).symm
  | succ n ih =>
    have hbit : crcBit c = c >>> 1 := by rw [crcBit, h 0 n.succ_pos]; rfl
    rw [Function.iterate_succ_apply, hbit, ih, ← BitVec.shiftRight_add, Nat.add_comm]
    intro i hi
    rw [BitVec.getLsbD_ushiftRight]
    exact h (1 + i) (by omega)

/-! ## The table form -/

/-- A byte has no bits above its eight. -/
theorem zextByte_ushiftRight_eight (b : Byte) : zextByte b >>> 8 = 0#32 := by
  apply BitVec.eq_of_toNat_eq
  have hlt := b.isLt
  simp only [zextByte, BitVec.toNat_ushiftRight, BitVec.toNat_setWidth, BitVec.toNat_ofNat, Nat.shiftRight_eq_div_pow]
  omega

/-- Taking a word's lowest byte away leaves zeros there. -/
theorem getLsbD_xor_lowByte (x : Word) {i : Nat} (h : i < 8) :
    (x ^^^ zextByte (x.extractLsb' 0 8)).getLsbD i = false := by
  simp [zextByte, h, Nat.lt_trans h (by decide : 8 < 32)]

/-- Eight bit steps of a word: its lowest byte goes through the table, the other three are shifted down (R70). -/
theorem crcBit_iterate_eight (x : Word) : crcBit^[8] x = crcTable (x.extractLsb' 0 8) ^^^ (x >>> 8) := by
  have hsplit : x = zextByte (x.extractLsb' 0 8) ^^^ (x ^^^ zextByte (x.extractLsb' 0 8)) := by
    rw [BitVec.xor_comm, BitVec.xor_assoc, BitVec.xor_self, BitVec.xor_zero]
  calc crcBit^[8] x
      = crcBit^[8] (zextByte (x.extractLsb' 0 8)) ^^^ crcBit^[8] (x ^^^ zextByte (x.extractLsb' 0 8)) := by
        rw [← crcBit_iterate_xor, ← hsplit]
    _ = crcTable (x.extractLsb' 0 8) ^^^ (x ^^^ zextByte (x.extractLsb' 0 8)) >>> 8 := by
        rw [← crcTable_eq_iterate, crcBit_iterate_of_low_zero 8 fun _ => getLsbD_xor_lowByte x]
    _ = crcTable (x.extractLsb' 0 8) ^^^ (x >>> 8) := by
        rw [BitVec.ushiftRight_xor_distrib, zextByte_ushiftRight_eight, BitVec.xor_zero]

/-- R70: the table form of the byte step; the byte fed reaches only the table's index. -/
theorem crcByte_eq_table (c : Word) (b : Byte) :
    crcByte c b = crcTable ((c ^^^ zextByte b).extractLsb' 0 8) ^^^ (c >>> 8) := by
  rw [crcByte_eq_iterate, crcBit_iterate_eight, BitVec.ushiftRight_xor_distrib, zextByte_ushiftRight_eight,
    BitVec.xor_zero]

/-! ## Sequences of bytes -/

/-- The checksum is incremental (R82 (b)). -/
theorem crcBytes_append (c : Word) (s t : List Byte) : crcBytes c (s ++ t) = crcBytes (crcBytes c s) t := by
  induction s generalizing c with
  | nil => rfl
  | cons b s ih => exact ih (crcByte c b)

/-- CRC.BYTE over a sequence of bytes (R72): `CRC` goes through the sequence, `LEN` counts it. -/
theorem foldl_feedByte (bs : List Byte) (r : Regs) : bs.foldl Regs.feedByte r =
    { r with crc := crcBytes r.crc bs, len := r.len + BitVec.ofNat 32 bs.length } := by
  induction bs generalizing r with
  | nil => simp [crcBytes]
  | cons b bs ih =>
    have hlen : r.len + 1#32 + BitVec.ofNat 32 bs.length = r.len + BitVec.ofNat 32 (bs.length + 1) := by
      rw [Nat.add_comm, BitVec.ofNat_add, BitVec.add_assoc]
    rw [List.foldl_cons, ih, List.length_cons, ← hlen]
    rfl

end Sys2Proof.Machine

open Sys2Proof Sys2Proof.Machine

/-- Settles O45: the low byte and the rest of `c xor zext b` go through the eight bit steps apart (`crcBit_iterate_eight`);
the printed entries are computed. -/
theorem tableFormIsTheByteStep : Obligations.TableFormIsTheByteStep :=
  ⟨crcByte_eq_table, crcTable_eq_iterate, by decide, by decide, by decide, by decide⟩

/-- Settles O44: the equations are the definitions, R67's worked example and R69's values are computed. -/
theorem checksumReferenceValues : Obligations.ChecksumReferenceValues := by
  refine ⟨fun _ => rfl, fun _ _ => rfl, fun _ => rfl, fun _ _ _ => rfl, fun _ => rfl, fun _ _ => rfl,
    by decide, by decide, by decide, by decide, by decide, by decide, by decide, by decide, by decide, by decide,
    finalCrc_allOnes, ?nineDigits, crc32_iend, ?helloRecord⟩
  case nineDigits => decide +kernel
  case helloRecord => decide +kernel

end

section
/-! PROOFS. The CRC, length and stored-CRC commands (`41_crc.md` R71 to R80): what each answers, as equations of `exec`, and
the account of the bytes fed (R74). -/

namespace Sys2Proof.Machine

/-! ## What each command answers -/

/-- R71. -/
theorem exec_crcInit (s : State) :
    exec .crcInit s = .next (((s.setCrc crcInitValue).setLen 0#32).respond .ok 0#32) := rfl

/-- R73. -/
theorem exec_crcType (s : State) :
    exec .crcType s = .next ((s.setCrc (crcBytes s.regs.crc (wireBytes s.regs.type))).respond .ok 0#32) := rfl

/-- R75. -/
theorem exec_crcRdb (k : ByteIndex) (s : State) :
    exec (.crcRdb k) s = .next (s.respond .ok (zextByte (byteOf (finalCrc s.regs.crc) k))) := rfl

/-- R76. -/
theorem exec_lenRd (s : State) : exec .lenRd s = .next (s.respond .ok s.regs.len) := rfl

/-- R77. -/
theorem exec_expLd (w : Word) (s : State) : exec (.expLd w) s = .next ((s.setExpect w).respond .ok 0#32) := rfl

/-- R79. -/
theorem exec_expRd (s : State) : exec .expRd s = .next (s.respond .ok s.regs.expect) := rfl

/-- R80, the checksum does not agree with the stored one. -/
theorem exec_crcChk_of_ne {s : State} (h : finalCrc s.regs.crc ≠ s.regs.expect) :
    exec .crcChk s = .next (s.raise .crcMismatchError (finalCrc s.regs.crc)) := by
  simp [exec, execCrcChk, h, State.raiseCrcMismatchError]

/-- R80: neither outcome of CRC.CHK writes what the comparison reads, and ECRC set again is set. -/
theorem crcChk_repeats {s t : State} (h : exec .crcChk s = .next t) : exec .crcChk t = .next t := by
  by_cases heq : finalCrc s.regs.crc = s.regs.expect
  · obtain rfl := Host.Outcome.next.inj ((exec_crcChk_of_eq heq).symm.trans h)
    exact exec_crcChk_of_eq (s := s.respond _ _) heq
  · obtain rfl := Host.Outcome.next.inj ((exec_crcChk_of_ne heq).symm.trans h)
    exact exec_crcChk_of_ne (s := s.raise _ _) heq

/-! ## Operands and results in the rule's form -/

/-- A word with the opcode of CRC.RDB is read in format K (R43, R75). -/
theorem decode_crcRdb_word (imm : Word) : decode (mkCmd 0x24#8 imm) = formatK .crcRdb imm := by
  simp [decode]

/-- Byte `k` as R75 writes it: the word shifted down to that byte, and masked. -/
theorem zextByte_byteOf (w : Word) (k : ByteIndex) :
    zextByte (byteOf w k) = (w >>> (24 - 8 * k.toNat)) &&& 0x000000FF#32 := by
  apply BitVec.eq_of_toNat_eq
  have hmask (n : Nat) : n &&& 0xFF = n % 2 ^ 8 := Nat.and_two_pow_sub_one_eq_mod n 8
  simp only [zextByte, byteOf, BitVec.toNat_setWidth, BitVec.extractLsb'_toNat, BitVec.toNat_and, BitVec.toNat_ushiftRight,
    BitVec.toNat_ofNat]
  rw [hmask]
  omega

/-- Adding 1 to `LEN` as R72 writes it. -/
theorem add_one_eq_ofNat_mod (n : Word) : n + 1#32 = BitVec.ofNat 32 ((n.toNat + 1) % 2 ^ 32) := by
  apply BitVec.eq_of_toNat_eq
  simp [BitVec.toNat_add]

/-! ## The account of the bytes fed -/

/-- Feeding more bytes to the accumulator adds them to the account (R68, R74). -/
theorem State.tracksBytes.append {s t : State} {fed more : List Byte} (hs : s.tracksBytes fed)
    (ht : t.regs.crc = crcBytes s.regs.crc more) : t.tracksBytes (fed ++ more) := by
  rw [State.tracksBytes, crcBytes_append, ← hs, ht]

/-- R74: every command keeps the account. SYS.RST and CRC.INIT start it, CRC.BYTE and CRC.TYPE add to it, and no other
command writes `CRC`. -/
theorem exec_tracksBytes {i : Instr} {s t : State} {fed : List Byte} (hs : s.tracksBytes fed) (h : exec i s = .next t) :
    t.tracksBytes (fedAfter s.regs.type fed i) := by
  cases i
  case sysRst | crcInit => cases h; rfl
  case crcByte b => cases h; exact hs.append (more := [b]) rfl
  case crcType => cases h; exact hs.append rfl
  case typLds | crcChk =>
    simp only [exec, execTypLds, execCrcChk] at h
    split at h <;> (cases h; exact hs)
  all_goals cases h; exact hs

end Sys2Proof.Machine

open Sys2Proof Sys2Proof.Machine

/-- Settles O27: the state is `exec_crcInit`, and doing it again writes the same values. -/
theorem crcInitStartsANewChecksum : Obligations.CrcInitStartsANewChecksum := by
  refine ⟨rfl, decode_encode .crcInit, exec_crcInit, ?twice⟩
  intro s t hexec
  obtain rfl := Host.Outcome.next.inj ((exec_crcInit s).symm.trans hexec)
  rfl

/-- Settles O28: the state is `exec_crcByte`; `LEN` is a 32-bit sum, so it wraps, and no flag is written. -/
theorem crcByteFeedsOneByte : Obligations.CrcByteFeedsOneByte := by
  refine ⟨fun b => ⟨rfl, decode_encode (.crcByte b), fun s => ?oneByte⟩, ?wraps, by decide⟩
  case oneByte => rw [exec_crcByte, Regs.feedByte, add_one_eq_ofNat_mod]; rfl
  case wraps =>
    intro b s t hlen hexec
    obtain rfl := Host.Outcome.next.inj ((exec_crcByte b s).symm.trans hexec)
    refine ⟨?_, rfl⟩
    rw [State.respond_regs, Regs.feedByte, hlen]; rfl

/-- Settles O29: the four commands CRC.BYTE run as `runInstrs_map_bytes` says, and feed what CRC.TYPE feeds. -/
theorem crcTypeFeedsTheFourTypeBytes : Obligations.CrcTypeFeedsTheFourTypeBytes := by
  refine ⟨rfl, decode_encode .crcType, exec_crcType, ?fourBytes⟩
  intro s t u hexec hrun
  obtain rfl := Host.Outcome.next.inj ((exec_crcType s).symm.trans hexec)
  obtain ⟨v, hv, hregs, -⟩ := runInstrs_map_bytes exec_crcByte (wireBytes s.regs.type) s
  obtain rfl : v = u := Host.Outcome.next.inj (hv.symm.trans hrun)
  rw [hregs, foldl_feedByte]
  exact ⟨rfl, rfl, rfl, rfl, rfl⟩

/-- Settles O30: the response is `exec_crcRd`, every command keeps the account of bytes (`exec_tracksBytes`), and the
checksum is the finalised accumulator. -/
theorem crcRdReadsTheFinalisedCrc : Obligations.CrcRdReadsTheFinalisedCrc := by
  refine ⟨rfl, decode_encode .crcRd, exec_crcRd, ?starts, fun _ _ _ _ => exec_tracksBytes, ?responds⟩
  case starts =>
    intro s t hexec
    obtain rfl := Host.Outcome.next.inj ((exec_crcInit s).symm.trans hexec)
    rfl
  case responds =>
    intro s fed hs
    rw [exec_crcRd, hs]; rfl

/-- Settles O31: the reserved bits are those of format K, and the response is the byte of the finalised CRC. -/
theorem crcRdbReadsOneByteInWireOrder : Obligations.CrcRdbReadsOneByteInWireOrder := by
  refine ⟨fun imm himm => ?reserved, fun k => ⟨rfl, decode_encode (.crcRdb k), fun s => ?response⟩⟩
  case reserved => exact (decode_crcRdb_word imm).trans (if_neg himm)
  case response => rw [exec_crcRdb, zextByte_byteOf]; rfl

/-- Settles O32: the response is `exec_lenRd`, in every state. -/
theorem lenRdReadsTheCount : Obligations.LenRdReadsTheCount :=
  ⟨rfl, decode_encode .lenRd, exec_lenRd⟩

/-- Settles O33: the state is `exec_expLd`, which writes `EXPECT` and reads nothing. -/
theorem expLdStoresTheNumber : Obligations.ExpLdStoresTheNumber :=
  fun w => ⟨rfl, decode_encode (.expLd w), exec_expLd w⟩

/-- Settles O34: one push is `exec_expPush` in its shift-and-or form, four leave the word of their bytes
(`runInstrs_pushExpect`), read as a big-endian number. -/
theorem expPushShiftsAByteIn : Obligations.ExpPushShiftsAByteIn := by
  refine ⟨fun b => ⟨rfl, decode_encode (.expPush b), fun s => ?_⟩, fun s e0 e1 e2 e3 => ?_⟩
  · rw [exec_expPush, Regs.shiftExpect, shiftInByte_eq_shiftLeft_or]; rfl
  · obtain ⟨u, hrun, hregs, -⟩ := runInstrs_pushExpect s e0 e1 e2 e3
    exact ⟨u, hrun, by rw [hregs, wordOf_toNat]⟩

/-- Settles O35: the response is `exec_expRd`, in every state. -/
theorem expRdReadsTheStoredCrc : Obligations.ExpRdReadsTheStoredCrc :=
  ⟨rfl, decode_encode .expRd, exec_expRd⟩

/-- Settles O36: the two outcomes are those of the comparison of the finalised value. -/
theorem crcChkComparesWithTheStoredCrc : Obligations.CrcChkComparesWithTheStoredCrc :=
  ⟨rfl, decode_encode .crcChk, fun _ => ⟨exec_crcChk_of_eq, exec_crcChk_of_ne⟩, fun _ _ => crcChk_repeats⟩

end

section
/-! PROOFS. The system commands (`42_system.md` R84, R85): SYS.RST beside hardware reset and with reserved bits set, and the
number SYS.STAT reads. -/

namespace Sys2Proof.Machine

/-- A word with the opcode of SYS.RST is read in format N (R43, R84). -/
theorem decode_sysRst_word (imm : Word) : decode (mkCmd 0x01#8 imm) = formatN .sysRst imm := by
  simp [decode]

/-- A word that matches no row raises IllegalCommand (R44, R89). -/
theorem runCommand_of_error {cmd : CmdWord} {e : DecodeReject} (h : decode cmd = .error e) (s : State) :
    runCommand cmd s = .next (s.raise .illegalCommand (zextByte (cmdOp cmd))) := by
  rw [runCommand, h]; rfl

/-- The sticky flags as a number: EFMT, ECRC and EILL at the weights 1, 2 and 4, and nothing above (R19, R85). -/
theorem Status.toNat_word (st : Status) : st.word.toNat = st.efmt.toNat + 2 * st.ecrc.toNat + 4 * st.eill.toNat := by
  obtain ⟨efmt, ecrc, eill⟩ := st
  revert efmt ecrc eill
  decide

/-- The word of the sticky flags is that number. -/
theorem Status.word_eq_ofNat (st : Status) :
    st.word = BitVec.ofNat 32 (st.efmt.toNat + 2 * st.ecrc.toNat + 4 * st.eill.toNat) := by
  rw [← Status.toNat_word, BitVec.ofNat_toNat, BitVec.setWidth_eq]

end Sys2Proof.Machine

open Sys2Proof Sys2Proof.Machine

/-- Settles O19: SYS.RST and hardware reset both write `Regs.reset`; with a reserved bit set the word is rejected in
format N, so the step only raises IllegalCommand. -/
theorem sysRstResetsEveryRegister : Obligations.SysRstResetsEveryRegister := by
  refine ⟨rfl, decode_encode .sysRst, exec_sysRst, ?hardwareReset, ?reserved⟩
  case hardwareReset =>
    intro s t u v rest hexec hinput hstep
    obtain rfl := Host.Outcome.next.inj ((exec_sysRst s).symm.trans hexec)
    obtain rfl := Host.Outcome.next.inj ((step_resets (State.nextEvent_reset hinput)).symm.trans hstep)
    rfl
  case reserved =>
    intro s imm rest himm hinput hrsp
    have hreject : decode (mkCmd 0x01#8 imm) = .error .reservedBitsN := (decode_sysRst_word imm).trans (if_neg himm)
    refine ⟨_, (step_ready hinput hrsp).trans (runCommand_of_error hreject _), ?_, rfl⟩
    rw [State.raise_rsp, cmdOp_mkCmd]; rfl

/-- Settles O20: the response is the word of the sticky flags, read as a number (`Status.word_eq_ofNat`). -/
theorem sysStatReadsTheStickyFlags : Obligations.SysStatReadsTheStickyFlags := by
  refine ⟨rfl, decode_encode .sysStat, fun s => ?_⟩
  rw [exec_sysStat, Status.word_eq_ofNat]; rfl

end

section
/-! PROOFS. The three faults (`60_exceptions.md` R86 to R89): what a command answers with code 0 and with each other code,
and that the words no row matches are those the decoder rejects. -/

namespace Sys2Proof

/-- The decoder rejects exactly the words that match no row (R43, R44). -/
theorem decode_error_iff_no_row (cmd : CmdWord) :
    (∃ e, decode cmd = .error e) ↔ ∀ row ∈ opcodeTable, cmd &&& row.mask ≠ row.pattern := by
  obtain ⟨-, hdecoded, hmatched, -⟩ := decodingIsMatchingARow
  constructor
  · rintro ⟨e, he⟩ row hrow hmatch
    obtain ⟨i, hi, -⟩ := hmatched cmd row hrow hmatch
    rw [he] at hi; cases hi
  · intro hnone
    cases hd : decode cmd with
    | error e => exact ⟨e, rfl⟩
    | ok i =>
      obtain ⟨row, hrow, -, hmatch⟩ := hdecoded cmd i hd
      exact absurd hmatch (hnone row hrow)

end Sys2Proof

namespace Sys2Proof.Machine

/-- The finalised CRC as R86 writes it. -/
theorem finalCrc_eq_xor (c : Word) : finalCrc c = c ^^^ 0xFFFFFFFF#32 := rfl

/-- A command answers with code 0, or it is TYP.LDS or CRC.CHK and takes its fault, on the fault's condition and with the
fault's data (R86). -/
theorem exec_ok_or_faults (i : Instr) (s : State) :
    (∃ t d, exec i s = .next t ∧ t.rsp = some ⟨.ok, d⟩ ∧ (∀ w, i = .typLds w → alpha w = true) ∧
      (i = .crcChk → finalCrc s.regs.crc = s.regs.expect)) ∨
    (∃ w, i = .typLds w ∧ alpha w = false ∧ exec i s = .next (s.raise .formatError w)) ∨
    (i = .crcChk ∧ finalCrc s.regs.crc ≠ s.regs.expect ∧
      exec i s = .next (s.raise .crcMismatchError (finalCrc s.regs.crc))) := by
  cases i
  case typLds w =>
    cases ha : alpha w with
    | true => exact .inl ⟨_, _, exec_typLds_of_alpha ha s, rfl, fun _ hw => Instr.typLds.inj hw ▸ ha, nofun⟩
    | false => exact .inr (.inl ⟨w, rfl, ha, exec_typLds_of_not_alpha ha s⟩)
  case crcChk =>
    by_cases heq : finalCrc s.regs.crc = s.regs.expect
    · exact .inl ⟨_, _, exec_crcChk_of_eq heq, rfl, nofun, fun _ => heq⟩
    · exact .inr (.inr ⟨rfl, heq, exec_crcChk_of_ne heq⟩)
  all_goals exact .inl ⟨_, _, rfl, rfl, nofun, nofun⟩

end Sys2Proof.Machine

open Sys2Proof Sys2Proof.Machine

/-- Settles O2: the step raises IllegalCommand and does nothing else (`runCommand_of_error`). -/
theorem illegalWordSetsOnlyEill : Obligations.IllegalWordSetsOnlyEill :=
  fun _ _ _ _ hinput hrsp hreject => ⟨_, (step_ready hinput hrsp).trans (runCommand_of_error hreject _), rfl, rfl⟩

/-- Settles O54: an accepted word is rejected by the decoder, or it runs a command that answers code 0 or takes one of its
two faults (`exec_ok_or_faults`); each of these four cases is a line of the table, or the case of no fault. -/
theorem threeFaultsAndTheirCauses : Obligations.ThreeFaultsAndTheirCauses := by
  intro s cmd rest hinput hrsp
  simp only [← decode_error_iff_no_row, ← finalCrc_eq_xor, step_ready hinput hrsp]
  rcases runCommand_cases cmd { s with input := rest } with ⟨i, hi, hrun⟩ | ⟨e, he, hrun⟩
  · rw [hrun]
    rcases exec_ok_or_faults i { s with input := rest } with
      ⟨t, d, ht, hr, hletters, hagrees⟩ | ⟨w, rfl, hnonletter, ht⟩ | ⟨rfl, hdiffers, ht⟩
    · exact ⟨t, _, ht, hr, by simp +contextual [hi, hletters, hagrees]⟩
    · exact ⟨_, _, ht, rfl, by simp [hi, hnonletter]⟩
    · exact ⟨_, _, ht, rfl, by simpa [hi] using hdiffers⟩
  · exact ⟨_, _, hrun, rfl, by simp [he, zextByte]⟩

end

section
/-! PROOFS. The round trip from a word to its command and back (`30_encoding.md` R41, R43): the format that accepted a word
fixes every bit of its immediate field. -/

namespace Sys2Proof

/-- A command word from the number of its opcode and its immediate field (R40). -/
theorem mkCmd_of_fields {cmd : CmdWord} {n : Nat} {imm : Word} (hop : (cmdOp cmd).toNat = n) (himm : cmdImm cmd = imm) :
    mkCmd (BitVec.ofNat 8 n) imm = cmd := by
  rw [← hop, ← himm, BitVec.ofNat_toNat, BitVec.setWidth_eq, mkCmd_cmdOp_cmdImm]

/-- With its upper bits zero, a bit string is zeros over its lower ones. -/
theorem eq_zero_append {m n : Nat} {x : BitVec (m + n)} (h : x.extractLsb' n m = 0#m) :
    x = 0#m ++ x.extractLsb' 0 n := by
  rw [← h, BitVec.extractLsb'_append_extractLsb']

/-- What format B accepts is zeros over its operand (R41). -/
theorem formatB_ok_imm {f : Byte → Instr} {i : Instr} {imm : Word} (h : formatB f imm = .ok i) :
    ∃ b : Byte, i = f b ∧ imm = 0#24 ++ b := by
  obtain ⟨hreserved, rfl⟩ := formatB_ok h
  exact ⟨_, rfl, eq_zero_append (m := 24) hreserved⟩

/-- What format K accepts is zeros over its operand (R41). -/
theorem formatK_ok_imm {f : ByteIndex → Instr} {i : Instr} {imm : Word} (h : formatK f imm = .ok i) :
    ∃ k : ByteIndex, i = f k ∧ imm = 0#30 ++ k := by
  obtain ⟨hreserved, rfl⟩ := formatK_ok h
  exact ⟨_, rfl, eq_zero_append (m := 30) hreserved⟩

/-- No bit of an accepted word is dropped: the opcode fixes the format, and what the format accepts is what the encoder
writes (R41, R43). -/
theorem encode_of_decode {cmd : CmdWord} {i : Instr} (h : decode cmd = .ok i) : encode i = cmd := by
  unfold decode at h
  split at h
  case h_1 hop | h_2 hop | h_6 hop | h_7 hop | h_9 hop | h_11 hop | h_12 hop | h_14 hop | h_17 hop | h_18 hop =>
    obtain ⟨himm, rfl⟩ := formatN_ok h
    exact mkCmd_of_fields hop himm
  case h_5 hop | h_10 hop | h_16 hop =>
    obtain ⟨b, rfl, himm⟩ := formatB_ok_imm h
    exact mkCmd_of_fields hop himm
  case h_13 hop =>
    obtain ⟨k, rfl, himm⟩ := formatK_ok_imm h
    exact mkCmd_of_fields hop himm
  case h_3 hop | h_4 hop | h_8 hop | h_15 hop =>
    obtain rfl := formatW_ok h
    exact mkCmd_of_fields hop rfl
  case h_19 => cases h

end Sys2Proof

open Sys2Proof Sys2Proof.Machine

/-- Settles O12: format by format, the operand is read back from where the encoder put it (`decode_encode`). -/
theorem decodeOfEncodeIsTheCommand : Obligations.DecodeOfEncodeIsTheCommand :=
  fun i _ => decode_encode i

/-- Settles O13: the word is the one the encoder writes (`encode_of_decode`), and the type of the operand is its field. -/
theorem encodeOfDecodeIsTheWord : Obligations.EncodeOfDecodeIsTheWord :=
  fun _ i h => ⟨encode_of_decode h, i.wellFormed_true⟩

/-- Settles O16: the words are literals, so the decoder is run on each. -/
theorem wordsOfTheTableDecode : Obligations.WordsOfTheTableDecode := by
  unfold Obligations.WordsOfTheTableDecode
  decide

end

section
/-! PROOFS. The transaction a command word runs (`20_memory.md` R34), and what every event at the ports keeps: the accounts of
the bytes fed (`10_state.md` R18, `41_crc.md` R74) and that sticky flags have been reported (`10_state.md` R19). -/

namespace Sys2Proof.Machine

/-! ## Transactions -/

/-- R34 (d): a command word writes registers and gives one response, as its transaction says, and touches nothing else. -/
theorem runCommand_eq_transact (cmd : CmdWord) (s : State) : runCommand cmd s =
    .next { s with regs := (transact s.regs cmd).1, rsp := some (transact s.regs cmd).2 } := by
  unfold runCommand transact
  cases decode cmd with
  | error e => rfl
  | ok i =>
    cases i
    case typLds w =>
      cases ha : alpha w with
      | true => simp only [exec_typLds_of_alpha ha, ha]; rfl
      | false => simp only [exec_typLds_of_not_alpha ha, ha]; rfl
    case crcChk =>
      by_cases heq : s.regs.crc ^^^ 0xFFFFFFFF#32 = s.regs.expect
      · simp only [exec_crcChk_of_eq heq, if_pos heq]; rfl
      · simp only [exec_crcChk_of_ne heq, if_neg heq]; rfl
    case typEq w =>
      by_cases heq : s.regs.type = w
      · simp only [exec_typEq_of_eq heq, if_pos heq]; rfl
      · simp only [exec_typEq_of_ne heq, if_neg heq]; rfl
    case typPush b => simp only [exec_typPush, Regs.shiftType, shiftInByte_eq_shiftLeft_or]; rfl
    case expPush b => simp only [exec_expPush, Regs.shiftExpect, shiftInByte_eq_shiftLeft_or]; rfl
    all_goals rfl

/-- R93: apart from SYS.RST, which resets all registers, a transaction raises the sticky flag of its response's code and
writes no other. -/
theorem transact_status (r : Regs) (cmd : CmdWord) :
    (decode cmd = .ok .sysRst ∧ (transact r cmd).1 = Regs.reset) ∨
    (transact r cmd).1.status = r.status.raise (transact r cmd).2.code := by
  unfold transact
  cases decode cmd with
  | error e => exact .inr rfl
  | ok i =>
    cases i
    case sysRst => exact .inl ⟨rfl, rfl⟩
    case typLds | crcChk => right; dsimp only; split <;> rfl
    all_goals exact .inr rfl

/-- An accepted command (R46): the step is its transaction, and the schedule has gone on. -/
theorem step_accepts {s : State} {cmd : CmdWord} {rest : List PortEvent} (hinput : s.input = .command cmd :: rest)
    (hrsp : s.rsp = none) : step s = .next { s with
      regs := (transact s.regs cmd).1, input := rest, rsp := some (transact s.regs cmd).2 } :=
  (step_ready hinput hrsp).trans (runCommand_eq_transact cmd _)

/-! ## The accounts of bytes -/

/-- R18: every command keeps the count. SYS.RST and CRC.INIT start it, CRC.BYTE adds one, and no other command writes
`LEN`. -/
theorem exec_tracksCount {i : Instr} {s t : State} {n : Nat} (hs : s.tracksCount n) (h : exec i s = .next t) :
    t.tracksCount (countAfter n i) := by
  cases i
  case sysRst | crcInit => cases h; rfl
  case crcByte b =>
    cases h
    change s.regs.len + 1#32 = BitVec.ofNat 32 (n + 1)
    rw [show s.regs.len = BitVec.ofNat 32 n from hs, BitVec.ofNat_add]
  case typLds | crcChk =>
    simp only [exec, execTypLds, execCrcChk] at h
    split at h <;> (cases h; exact hs)
  all_goals cases h; exact hs

/-- An account of the bytes fed is kept by every event at the ports, when it reads only `CRC` and `LEN`, starts anew with the
reset values and is kept by the commands: nothing else writes these two registers. -/
theorem step_keeps_account {α : Type} {tracks : State → α → Prop} {a zero : α} {after : Instr → α} {s : State}
    (hkeep : ∀ t : State, t.regs.crc = s.regs.crc → t.regs.len = s.regs.len → tracks t a)
    (hzero : ∀ t : State, t.regs = Regs.reset → tracks t zero)
    (hexec : ∀ i rest t, exec i { s with input := rest } = .next t → tracks t (after i)) :
    ∃ t, step s = .next t ∧
      match s.nextEvent with
      | none => tracks t a
      | some (.take, _) => tracks t a
      | some (.reset, _) => tracks t zero
      | some (.command cmd, _) =>
        match decode cmd with
        | .ok i => tracks t (after i)
        | .error _ => tracks t a := by
  rcases step_cases s with
    ⟨hev, hstep⟩ | ⟨cmd, rest, hev, -, -, hstep⟩ | ⟨rest, hev, hstep⟩ | ⟨rest, hev, hstep⟩
  · exact ⟨_, hstep, by rw [hev]; exact hkeep _ rfl rfl⟩
  · rcases runCommand_cases cmd { s with input := rest } with ⟨i, hi, hrun⟩ | ⟨e, he, hrun⟩
    · obtain ⟨t, ht, -⟩ := exec_withInput i { s with input := rest }
      exact ⟨t, hstep.trans (hrun.trans ht), by rw [hev]; simp only [hi]; exact hexec i rest t ht⟩
    · exact ⟨_, hstep.trans hrun, by rw [hev]; simp only [he]; exact hkeep _ rfl rfl⟩
  · exact ⟨_, hstep, by rw [hev]; exact hkeep _ rfl rfl⟩
  · exact ⟨_, hstep, by rw [hev]; exact hzero _ rfl⟩

/-! ## Flags reported -/

/-- R47: one more response given is one more code reported. -/
theorem State.reported_append {s t : State} {r : Response} (h : t.responses = s.responses ++ [r]) (c : RspCode) :
    t.reported c = (s.reported c || r.code == c) := by
  simp [State.reported, h]

/-- The invariant reads the sticky flags and the responses given, and nothing else. -/
theorem State.flagsReported_congr {s t : State} (hs : s.flagsReported = true)
    (hstatus : t.regs.status = s.regs.status) (hresponses : t.responses = s.responses) : t.flagsReported = true := by
  simpa only [State.flagsReported, State.reported, hstatus, hresponses] using hs

/-- With no sticky flag up there is none to report. -/
theorem State.flagsReported_of_clear {s : State} (h : s.regs.status = Status.clear) : s.flagsReported = true := by
  rw [State.flagsReported, h]; rfl

/-- A flag raised together with the response of its code is a flag reported (R93). -/
theorem State.flagsReported_of_raise {s t : State} {r : Response} (hs : s.flagsReported = true)
    (hstatus : t.regs.status = s.regs.status.raise r.code) (hresponses : t.responses = s.responses ++ [r]) :
    t.flagsReported = true := by
  simp only [State.flagsReported, Bool.and_eq_true, Bool.or_eq_true, Bool.not_eq_true'] at hs
  obtain ⟨⟨hefmt, hecrc⟩, heill⟩ := hs
  simp only [State.flagsReported, State.reported_append hresponses, hstatus]
  cases r.code <;> simp [Status.raise, hefmt, hecrc, heill]

end Sys2Proof.Machine

open Sys2Proof Sys2Proof.Machine

/-- Settles O49: an account that every command keeps (`exec_tracksBytes`) is kept by every event (`step_keeps_account`). -/
theorem crcTracksTheBytesFed : Obligations.CrcTracksTheBytesFed := by
  intro s fed hs
  refine step_keeps_account (tracks := State.tracksBytes) ?keep ?zero ?exec
  case keep => intro t hcrc _; exact hcrc.trans hs
  case zero => intro t ht; rw [State.tracksBytes, ht]; rfl
  case exec => intro i rest t ht; exact exec_tracksBytes (s := { s with input := rest }) hs ht

/-- Settles O10: as for the bytes, with the count that every command keeps (`exec_tracksCount`). -/
theorem lenCountsDataBytes : Obligations.LenCountsDataBytes := by
  intro s n hs
  refine step_keeps_account (tracks := State.tracksCount) ?keep ?zero ?exec
  case keep => intro t _ hlen; exact hlen.trans hs
  case zero => intro t ht; rw [State.tracksCount, ht]; rfl
  case exec => intro i rest t ht; exact exec_tracksCount (s := { s with input := rest }) hs ht

/-- Settles O59: a transaction raises only the flag of the response it gives (`transact_status`), a reset clears the flags,
and waiting and taking change neither flags nor responses. -/
theorem everyStepKeepsFlagsReported : Obligations.EveryStepKeepsFlagsReported := by
  intro s t hs hstep
  rcases step_cases s with ⟨-, h⟩ | ⟨cmd, rest, -, hinput, hrsp, -⟩ | ⟨rest, -, h⟩ | ⟨rest, -, h⟩
  · obtain rfl := Host.Outcome.next.inj (h.symm.trans hstep)
    exact hs
  · obtain rfl := Host.Outcome.next.inj ((step_accepts hinput hrsp).symm.trans hstep)
    rcases transact_status s.regs cmd with ⟨-, hregs⟩ | hstatus
    · exact State.flagsReported_of_clear (congrArg Regs.status hregs)
    · exact State.flagsReported_of_raise hs hstatus (by simp [State.responses, hrsp])
  · obtain rfl := Host.Outcome.next.inj (h.symm.trans hstep)
    exact State.flagsReported_congr hs rfl s.takeResponse_responses
  · obtain rfl := Host.Outcome.next.inj (h.symm.trans hstep)
    exact State.flagsReported_of_clear rfl

/-- Settles O60: the reset values have no sticky flag up. -/
theorem resetStateHasFlagsReported : Obligations.ResetStateHasFlagsReported :=
  ⟨State.flagsReported_of_clear rfl, decide_eq_true rfl⟩

end

section
/-! PROOFS. The ports (`30_encoding.md` R46, `70_reset_and_hazards.md` R106, R111): a held command, the answer every step and
every command word gets, and the run of a sequence of words as a fold (R34, R108). -/

namespace Sys2Proof.Machine

/-! ## A held command -/

/-- The host takes the response while it holds a command (R46). -/
theorem step_held_take {s : State} {cmd : CmdWord} {more : List PortEvent}
    (hinput : s.input = .command cmd :: .take :: more) (hrsp : s.rsp ≠ none) :
    step s = .next { s.takeResponse with input := .command cmd :: more } :=
  step_takes (State.nextEvent_held hinput hrsp)

/-- Reset at an edge at which a command is held (R106). -/
theorem step_held_reset {s : State} {cmd : CmdWord} {more : List PortEvent}
    (hinput : s.input = .command cmd :: .reset :: more) (hrsp : s.rsp ≠ none) :
    step s = .next { s.hardReset with input := .command cmd :: more } :=
  step_resets (State.nextEvent_held hinput hrsp)

/-- A command is held and nothing else is done (R46). -/
theorem step_held_waits {s : State} {cmd : CmdWord} {rest : List PortEvent} (hinput : s.input = .command cmd :: rest)
    (hrsp : s.rsp ≠ none) (hwaits : whileHeld cmd rest = none) : step s = .next s :=
  step_waits ((State.nextEvent_held hinput hrsp).trans hwaits)

/-- `cmd_ready` outside reset (R46). -/
theorem State.cmdReady_iff (s : State) : s.cmdReady false = true ↔ s.rsp = none := by
  simp [State.cmdReady]

/-- `rsp_valid` outside reset is the opposite of `cmd_ready` (R46). -/
theorem State.rspValid_eq_not_cmdReady (s : State) : s.rspValid false = !s.cmdReady false := by
  simp [State.rspValid, State.rspPort, State.cmdReady]

/-! ## Every step answers -/

/-- R111: no state is stuck. -/
theorem step_answers (s : State) : ∃ t, step s = .next t := by
  rcases step_cases s with ⟨-, h⟩ | ⟨cmd, rest, -, hinput, hrsp, -⟩ | ⟨rest, -, h⟩ | ⟨rest, -, h⟩
  · exact ⟨_, h⟩
  · exact ⟨_, step_accepts hinput hrsp⟩
  · exact ⟨_, h⟩
  · exact ⟨_, h⟩

/-- With none outstanding, the responses given are those taken (R34 (d)). -/
theorem State.responses_of_rsp_none {s : State} (hrsp : s.rsp = none) : s.responses = s.taken := by
  rw [State.responses, hrsp, Option.toList_none, List.append_nil]

/-- No response is lost but by hardware reset (R106, R111). -/
theorem step_keeps_responses {s t : State} (hstep : step s = .next t)
    (hreset : ∀ rest, s.nextEvent ≠ some (.reset, rest)) : s.responses <+: t.responses := by
  rcases step_cases s with ⟨-, h⟩ | ⟨cmd, rest, -, hinput, hrsp, -⟩ | ⟨rest, -, h⟩ | ⟨rest, hev, -⟩
  · obtain rfl := Host.Outcome.next.inj (h.symm.trans hstep)
    exact ⟨[], List.append_nil _⟩
  · obtain rfl := Host.Outcome.next.inj ((step_accepts hinput hrsp).symm.trans hstep)
    rw [State.responses_of_rsp_none hrsp]
    exact ⟨_, rfl⟩
  · obtain rfl := Host.Outcome.next.inj (h.symm.trans hstep)
    exact ⟨[], (List.append_nil _).trans s.takeResponse_responses.symm⟩
  · exact absurd hev (hreset rest)

/-- Two steps, one after the other. -/
theorem steps_two {s t : State} (h : step s = .next t) : steps 2 s = step t := by
  simp only [steps, h]
  obtain ⟨u, hu⟩ := step_answers t
  rw [hu]

/-! ## Runs as folds -/

/-- R34, R108: a run of command words is the fold of their transactions. -/
theorem runWords_eq_foldTransact (ws : List CmdWord) (s : State) : ∃ t, runWords ws s = .next t ∧
    t.regs = (foldTransact s.regs ws).1 ∧ t.responses = s.responses ++ (foldTransact s.regs ws).2 ∧
    t.input = s.input := by
  induction ws generalizing s with
  | nil => exact ⟨s, rfl, rfl, (List.append_nil _).symm, rfl⟩
  | cons cmd ws ih =>
    have hfirst := runCommand_eq_transact cmd s.takeResponse
    obtain ⟨t, hrun, hregs, hresponses, hinput⟩ := ih
      { s.takeResponse with regs := (transact s.regs cmd).1, rsp := some (transact s.regs cmd).2 }
    refine ⟨t, (runWords_cons hfirst ws).trans hrun, hregs, hresponses.trans ?_, hinput⟩
    exact List.append_assoc _ [_] _

end Sys2Proof.Machine

open Sys2Proof Sys2Proof.Machine

/-- Settles O6: an accepted word's step is its transaction (`step_accepts`), at once or after a step that takes the response
outstanding (`step_held_take`); the steps that answer something else lose no response but at a reset. -/
theorem everyCommandIsAnswered : Obligations.EveryCommandIsAnswered := by
  refine ⟨step_answers, ?ready, ?held, fun _ _ => step_keeps_responses⟩
  case ready =>
    intro s cmd rest hinput hrsp
    exact ⟨_, _, step_accepts hinput hrsp, rfl, rfl, by rw [State.responses_of_rsp_none hrsp]; rfl⟩
  case held =>
    intro s cmd rest hinput hrsp
    exact ⟨_, _, (steps_two (step_held_take hinput hrsp)).trans (step_accepts rfl rfl), rfl, rfl, rfl⟩

/-- Settles O7: by induction on the words, each of which runs its transaction. -/
theorem machineIsTheFoldOfTransactions : Obligations.MachineIsTheFoldOfTransactions :=
  runWords_eq_foldTransact

/-- Settles O1: the accepted word runs, and it decodes to the command. -/
theorem stepRunsTheDecodedCommand : Obligations.StepRunsTheDecodedCommand := by
  intro s cmd rest i hinput hrsp hi
  rw [step_ready hinput hrsp, runCommand, hi]

/-- Settles O3: the step at each of the two events. -/
theorem takingAndWaitingKeepTheRegisters : Obligations.TakingAndWaitingKeepTheRegisters :=
  fun s => ⟨fun hinput => step_waits (by rw [State.nextEvent, hinput]),
    fun _ hinput => step_takes (State.nextEvent_take hinput)⟩

/-- Settles O4: the step is a hardware reset in both cases, and the held command stays presented. -/
theorem hardwareResetDiscardsTheOutstandingResponse : Obligations.HardwareResetDiscardsTheOutstandingResponse := by
  intro s rest after hcase
  have hstep : step s = .next { s.hardReset with input := after } := by
    rcases hcase with ⟨hinput, rfl⟩ | ⟨cmd, hrsp, hinput, rfl⟩
    · exact step_resets (State.nextEvent_reset hinput)
    · exact step_held_reset hinput hrsp
  exact ⟨rfl, rfl, _, hstep, rfl, rfl, rfl, rfl, rfl, rfl⟩

/-- Settles O5: an accepted command gives its response (`step_accepts`); a held one waits or sees the response taken, after
which nothing is outstanding and it is accepted. -/
theorem notReadyUntilTheResponseIsTaken : Obligations.NotReadyUntilTheResponseIsTaken := by
  refine ⟨fun s => ⟨s.cmdReady_iff, s.rspValid_eq_not_cmdReady⟩, ?accepted, ?held⟩
  case accepted =>
    intro s t cmd rest hinput hready hstep
    have haccepts := step_accepts hinput (s.cmdReady_iff.1 hready)
    obtain rfl := Host.Outcome.next.inj (haccepts.symm.trans hstep)
    exact ⟨rfl, rfl, rfl⟩
  case held =>
    intro s cmd rest hinput hbusy
    have hrsp : s.rsp ≠ none := fun h => by simp [s.cmdReady_iff.2 h] at hbusy
    refine ⟨?nothing, ?command, ?take⟩
    case nothing =>
      rintro rfl
      exact step_held_waits hinput hrsp rfl
    case command =>
      rintro cmd' more rfl
      exact step_held_waits hinput hrsp rfl
    case take =>
      rintro more rfl
      exact ⟨_, step_held_take hinput hrsp, rfl, s.takeResponse_responses, rfl, rfl, rfl, step_ready rfl rfl⟩

end

section
/-! PROOFS. What a command writes (`10_state.md` R12), what a fault writes (`60_exceptions.md` R93 to R95), and which commands
repeat (`20_memory.md` R32). -/

namespace Sys2Proof.Machine

/-! ## The registers written -/

/-- The "written by" column of R12, read from left to right: the registers `r'` a command may leave when it finds `r`. -/
inductive Regs.Written (r : Regs) (i : Instr) : Regs → Prop where
  | all (hi : i = .sysRst) : Written r i Regs.reset
  | type {v : Word} (hi : (∃ w, i = .typLd w) ∨ (∃ w, i = .typLds w) ∨ (∃ b, i = .typPush b)) :
      Written r i { r with type := v }
  | crc {v : Word} (hi : i = .crcType) : Written r i { r with crc := v }
  | crcLen {v n : Word} (hi : i = .crcInit ∨ ∃ b, i = .crcByte b) : Written r i { r with crc := v, len := n }
  | expect {v : Word} (hi : (∃ w, i = .expLd w) ∨ ∃ b, i = .expPush b) : Written r i { r with expect := v }
  | status {st : Status}
      (hi : (∃ w, i = .typLds w ∧ alpha w = false) ∨ (i = .crcChk ∧ r.crc ^^^ 0xFFFFFFFF#32 ≠ r.expect)) :
      Written r i { r with status := st }
  | none : Written r i r

/-- Every command writes only what R12 says. -/
theorem exec_written {i : Instr} {s t : State} (h : exec i s = .next t) : s.regs.Written i t.regs := by
  cases i
  case sysRst => cases h; exact .all rfl
  case typLd w => cases h; exact .type (.inl ⟨w, rfl⟩)
  case typPush b => cases h; exact .type (.inr (.inr ⟨b, rfl⟩))
  case typLds w =>
    cases ha : alpha w with
    | true =>
      obtain rfl := Host.Outcome.next.inj ((exec_typLds_of_alpha ha s).symm.trans h)
      exact .type (.inr (.inl ⟨w, rfl⟩))
    | false =>
      obtain rfl := Host.Outcome.next.inj ((exec_typLds_of_not_alpha ha s).symm.trans h)
      exact .status (.inl ⟨w, rfl, ha⟩)
  case crcInit => cases h; exact .crcLen (.inl rfl)
  case crcByte b => cases h; exact .crcLen (.inr ⟨b, rfl⟩)
  case crcType => cases h; exact .crc rfl
  case expLd w => cases h; exact .expect (.inl ⟨w, rfl⟩)
  case expPush b => cases h; exact .expect (.inr ⟨b, rfl⟩)
  case crcChk =>
    by_cases heq : finalCrc s.regs.crc = s.regs.expect
    · obtain rfl := Host.Outcome.next.inj ((exec_crcChk_of_eq heq).symm.trans h)
      exact .none
    · obtain rfl := Host.Outcome.next.inj ((exec_crcChk_of_ne heq).symm.trans h)
      exact .status (.inr ⟨rfl, heq⟩)
  all_goals cases h; exact .none

/-- No command touches the host's schedule or the responses taken. -/
theorem exec_keeps_host {i : Instr} {s t : State} (h : exec i s = .next t) : t.input = s.input ∧ t.taken = s.taken := by
  have hrun : runCommand (encode i) s = .next t := by rw [runCommand, decode_encode]; exact h
  obtain rfl := Host.Outcome.next.inj ((runCommand_eq_transact (encode i) s).symm.trans hrun)
  exact ⟨rfl, rfl⟩

/-! ## Faults -/

/-- A command word answers with code 0 or raises, and raising is all it then does (R93). -/
theorem runCommand_ok_or_raises (cmd : CmdWord) (s : State) :
    (∃ t d, runCommand cmd s = .next t ∧ t.rsp = some ⟨.ok, d⟩) ∨ ∃ c d, runCommand cmd s = .next (s.raise c d) := by
  rcases runCommand_cases cmd s with ⟨i, -, hrun⟩ | ⟨e, -, hrun⟩
  · rw [hrun]
    rcases exec_ok_or_faults i s with ⟨t, d, ht, hr, -⟩ | ⟨w, -, -, ht⟩ | ⟨-, -, ht⟩
    · exact .inl ⟨t, d, ht, hr⟩
    · exact .inr ⟨_, _, ht⟩
    · exact .inr ⟨_, _, ht⟩
  · exact .inr ⟨_, _, hrun⟩

/-- Each flag after a fault, by the fault's code (R86). -/
theorem Status.raise_flags (st : Status) (c : RspCode) :
    (st.raise c).efmt = (st.efmt || c == .formatError) ∧ (st.raise c).ecrc = (st.ecrc || c == .crcMismatchError) ∧
      (st.raise c).eill = (st.eill || c == .illegalCommand) := by
  cases c <;> simp [Status.raise]

/-- A flag goes from 1 to 0. -/
def Status.Clears (st st' : Status) : Prop :=
  (st.efmt = true ∧ st'.efmt = false) ∨ (st.ecrc = true ∧ st'.ecrc = false) ∨ (st.eill = true ∧ st'.eill = false)

theorem Status.not_clears_self (st : Status) : ¬ st.Clears st := by
  simp [Status.Clears]

/-- Raising a flag clears none (R93). -/
theorem Status.not_clears_raise (st : Status) (c : RspCode) : ¬ st.Clears (st.raise c) := by
  obtain ⟨hefmt, hecrc, heill⟩ := st.raise_keeps c
  simp +contextual [Status.Clears, hefmt, hecrc, heill]

/-! ## Reading -/

/-- R32: a read command only responds, and what it responds does not depend on the response channel. -/
theorem exec_read {i : Instr} (h : isReadCommand i = true) (s : State) : ∃ r : Response, r.code = .ok ∧
    exec i s = .next { s with rsp := some r } ∧ exec i { s with rsp := some r } = .next { s with rsp := some r } := by
  cases i
  case sysStat | typRd | typFlg | typEq | crcRd | crcRdb | lenRd | expRd => exact ⟨_, rfl, rfl, rfl⟩
  all_goals cases h

end Sys2Proof.Machine

open Sys2Proof Sys2Proof.Machine

/-- Settles O9: a command that changes a register is one of those that write it (`exec_written`). -/
theorem registersAreWrittenOnlyByTheirCommands : Obligations.RegistersAreWrittenOnlyByTheirCommands := by
  intro i s t h
  have hhost := exec_keeps_host h
  have hwritten := exec_written h
  generalize t.regs = r at hwritten ⊢
  cases hwritten with
  | all hi => exact ⟨fun _ => .inl hi, fun _ => .inl hi, fun _ => .inl hi, fun _ => .inl hi, fun _ => .inl hi, hhost⟩
  | type hi => exact ⟨fun _ => .inr hi, absurd rfl, absurd rfl, absurd rfl, absurd rfl, hhost⟩
  | crc hi => exact ⟨absurd rfl, fun _ => .inr (.inr (.inr hi)), absurd rfl, absurd rfl, absurd rfl, hhost⟩
  | crcLen hi =>
    exact ⟨absurd rfl, fun _ => .inr (hi.imp_right .inl), absurd rfl, fun _ => .inr hi, absurd rfl, hhost⟩
  | expect hi => exact ⟨absurd rfl, absurd rfl, fun _ => .inr hi, absurd rfl, absurd rfl, hhost⟩
  | status hi => exact ⟨absurd rfl, absurd rfl, absurd rfl, absurd rfl, fun _ => .inr hi, hhost⟩
  | none => exact ⟨absurd rfl, absurd rfl, absurd rfl, absurd rfl, absurd rfl, hhost⟩

/-- Settles O55: a response whose code is not 0 is given by raising (`runCommand_ok_or_raises`), which writes one flag. -/
theorem faultChangesOneStickyFlagOnly : Obligations.FaultChangesOneStickyFlagOnly := by
  intro s t r cmd rest hinput hrsp hstep hr hcode
  rw [step_ready hinput hrsp] at hstep
  rcases runCommand_ok_or_raises cmd { s with input := rest } with ⟨u, d, hu, hok⟩ | ⟨c, d, hraise⟩
  · obtain rfl := Host.Outcome.next.inj (hu.symm.trans hstep)
    obtain rfl := Option.some.inj (hok.symm.trans hr)
    exact absurd rfl hcode
  · obtain rfl := Host.Outcome.next.inj (hraise.symm.trans hstep)
    obtain rfl := Option.some.inj ((State.raise_rsp _ c d).symm.trans hr)
    exact ⟨rfl, rfl, rfl, rfl, s.regs.status.raise_flags c⟩

/-- Settles O56: a transaction other than SYS.RST clears no flag (`transact_status`), and the word of SYS.RST is the one that
decodes to it (`encode_of_decode`). -/
theorem onlyResetClearsAStickyFlag : Obligations.OnlyResetClearsAStickyFlag := by
  intro s t hstep hclears
  change s.regs.status.Clears t.regs.status at hclears
  rcases step_cases s with ⟨-, h⟩ | ⟨cmd, rest, hev, hinput, hrsp, -⟩ | ⟨rest, -, h⟩ | ⟨rest, hev, h⟩
  · obtain rfl := Host.Outcome.next.inj (h.symm.trans hstep)
    exact absurd hclears (Status.not_clears_self _)
  · obtain rfl := Host.Outcome.next.inj ((step_accepts hinput hrsp).symm.trans hstep)
    rcases transact_status s.regs cmd with ⟨hi, hregs⟩ | hstatus
    · obtain rfl := encode_of_decode hi
      exact ⟨.inr ⟨rest, hev⟩, hregs⟩
    · exact absurd (hstatus ▸ hclears) (Status.not_clears_raise _ _)
  · obtain rfl := Host.Outcome.next.inj (h.symm.trans hstep)
    exact absurd hclears (Status.not_clears_self _)
  · obtain rfl := Host.Outcome.next.inj (h.symm.trans hstep)
    exact ⟨.inl ⟨rest, hev⟩, rfl⟩

/-- Settles O57: no command but SYS.STAT reads the sticky flags, and the conditions of the two faults do not. -/
theorem stickyFlagsBlockNothing : Obligations.StickyFlagsBlockNothing := by
  intro i s t st h
  cases i
  case sysStat => cases h; exact ⟨_, rfl, rfl, rfl, rfl, rfl, absurd rfl⟩
  case typLds w =>
    cases ha : alpha w with
    | true =>
      obtain rfl := Host.Outcome.next.inj ((exec_typLds_of_alpha ha s).symm.trans h)
      exact ⟨_, exec_typLds_of_alpha ha _, rfl, rfl, rfl, rfl, fun _ => rfl⟩
    | false =>
      obtain rfl := Host.Outcome.next.inj ((exec_typLds_of_not_alpha ha s).symm.trans h)
      exact ⟨_, exec_typLds_of_not_alpha ha _, rfl, rfl, rfl, rfl, fun _ => rfl⟩
  case crcChk =>
    by_cases heq : finalCrc s.regs.crc = s.regs.expect
    · obtain rfl := Host.Outcome.next.inj ((exec_crcChk_of_eq heq).symm.trans h)
      exact ⟨_, exec_crcChk_of_eq heq, rfl, rfl, rfl, rfl, fun _ => rfl⟩
    · obtain rfl := Host.Outcome.next.inj ((exec_crcChk_of_ne heq).symm.trans h)
      exact ⟨_, exec_crcChk_of_ne heq, rfl, rfl, rfl, rfl, fun _ => rfl⟩
  all_goals cases h; exact ⟨_, rfl, rfl, rfl, rfl, rfl, fun _ => rfl⟩

/-- Settles O58: the read commands only respond (`exec_read`), CRC.CHK repeats (`crcChk_repeats`); from reset, a second
CRC.BYTE counts a second byte, and a second CRC.TYPE, TYP.PUSH or EXP.PUSH leaves another word in its register. -/
theorem readCommandsChangeNoState : Obligations.ReadCommandsChangeNoState := by
  refine ⟨fun i s h => exec_read h s, fun _ _ => crcChk_repeats, ?feeding⟩
  simp only [List.forall_mem_cons]
  exact ⟨⟨State.reset, _, _, rfl, rfl, by decide⟩, ⟨State.reset, _, _, rfl, rfl, by decide +kernel⟩,
    ⟨State.reset, _, _, rfl, rfl, by decide⟩, ⟨State.reset, _, _, rfl, rfl, by decide⟩, List.forall_mem_nil _⟩

end

section
/-! PROOFS. The laws of the chunk-type decoder (`40_chunk_type.md` R64): what each flipped bit of a type changes, and which
values of the flags word occur. -/

namespace Sys2Proof.Machine

/-! ## Flipping one bit -/

/-- The bits of a word with bit `n` flipped. -/
theorem getLsbD_flip (t : Word) (n : Nat) {m : Nat} (hm : m < 32) :
    (t ^^^ (1#32 <<< n)).getLsbD m = if n = m then !t.getLsbD m else t.getLsbD m := by
  rw [BitVec.getLsbD_xor, ← BitVec.twoPow_eq, BitVec.getLsbD_twoPow]
  by_cases h : n = m <;> simp [h, hm]

/-- The same for a flag that reads the bit inverted. -/
theorem not_getLsbD_flip (t : Word) (n : Nat) {m : Nat} (hm : m < 32) :
    (!(t ^^^ (1#32 <<< n)).getLsbD m) = if n = m then !!t.getLsbD m else !t.getLsbD m := by
  rw [getLsbD_flip t n hm, apply_ite not]

/-! ## Bit 5 of a byte -/

/-- R64 (e): bit 5 is the case of a letter, so flipping it makes no letter and unmakes none. -/
theorem isAlpha_xor_caseBit (b : Byte) : isAlpha (b ^^^ 0x20#8) = isAlpha b := by
  revert b; decide

/-- A byte of an xor is the xor of the bytes (R9). -/
theorem byteOf_xor (t u : Word) (k : ByteIndex) : byteOf (t ^^^ u) k = byteOf t k ^^^ byteOf u k :=
  BitVec.extractLsb'_xor

/-- A mask of nothing but bits 5 in its bytes does not change ALPHA. -/
theorem alpha_xor_caseBits {u : Word} (hu : ∀ k, byteOf u k = 0x20#8 ∨ byteOf u k = 0x00#8) (t : Word) :
    alpha (t ^^^ u) = alpha t := by
  have hbyte (k : ByteIndex) : isAlpha (byteOf (t ^^^ u) k) = isAlpha (byteOf t k) := by
    rw [byteOf_xor]
    rcases hu k with h | h
    · rw [h, isAlpha_xor_caseBit]
    · rw [h, BitVec.xor_zero]
  simp only [alpha, hbyte]

/-- R64 (b) is not true of bit 5 of a byte (log entry 12). -/
theorem alpha_flip_caseBit {n : Nat} (hn : n ∈ [5, 13, 21, 29]) (t : Word) : alpha (t ^^^ (1#32 <<< n)) = alpha t := by
  have hmask : ∀ n ∈ [5, 13, 21, 29], ∀ k, byteOf (1#32 <<< n) k = 0x20#8 ∨ byteOf (1#32 <<< n) k = 0x00#8 := by decide
  exact alpha_xor_caseBits (hmask n hn) t

/-- R64 (d): the upper-case letters stand below 0x60, where bit 5 is 0, the others above. -/
theorem letter_bit5_iff {b : Byte} (h : isAlpha b = true) :
    b.getLsbD 5 = false ↔ 0x41#8 ≤ b ∧ b ≤ 0x5A#8 := by
  rw [isAlpha_iff] at h
  simp only [BitVec.le_def, BitVec.toNat_ofNat] at h ⊢
  rw [← BitVec.testBit_toNat, Nat.testBit_eq_decide_div_mod_eq, decide_eq_false_iff_not]
  omega

/-- R64 (b) for the other bits: '@' (0x40) becomes a letter when one of its bits 0 to 4 is flipped, and 'A' becomes none
when bit 6 or 7 is. -/
theorem exists_alpha_flip_ne {n : Nat} (hn : n < 32) (h5 : n % 8 ≠ 5) :
    ∃ t : Word, alpha (t ^^^ (1#32 <<< n)) ≠ alpha t := by
  have hflip : ∀ n < 32, n % 8 ≠ 5 → [0x41414141#32, 0x41414140#32, 0x41414041#32, 0x41404141#32, 0x40414141#32].any
      (fun t => alpha (t ^^^ (1#32 <<< n)) != alpha t) = true := by decide
  obtain ⟨t, -, ht⟩ := List.any_eq_true.1 (hflip n hn h5)
  exact ⟨t, bne_iff_ne.1 ht⟩

/-! ## The values of the flags word -/

/-- A byte with a given bit 5, a letter or not. -/
def sampleByte (letter bit5 : Bool) : Byte :=
  match letter, bit5 with
  | true, false => 0x41#8
  | true, true => 0x61#8
  | false, false => 0x00#8
  | false, true => 0x20#8

/-- A type with given flags: VALID is determined by two of them (R55). -/
def sampleType (c p r s a : Bool) : Word :=
  wordOf (sampleByte a (!c)) (sampleByte a (!p)) (sampleByte a (!r)) (sampleByte a s)

theorem sampleByte_bit5 (a b : Bool) : (sampleByte a b).getLsbD 5 = b := by
  cases a <;> cases b <;> rfl

theorem isAlpha_sampleByte (a b : Bool) : isAlpha (sampleByte a b) = a := by
  cases a <;> cases b <;> rfl

/-- Every combination of the first five flags occurs. -/
theorem exists_type_of_flags (c p r s a : Bool) :
    ∃ t, crit t = c ∧ pub t = p ∧ rsvok t = r ∧ safe t = s ∧ alpha t = a := by
  refine ⟨sampleType c p r s a, ?_⟩
  simp only [crit, pub, rsvok, safe, alpha, sampleType, byteOf_wordOf_zero, byteOf_wordOf_one, byteOf_wordOf_two,
    byteOf_wordOf_three, sampleByte_bit5, isAlpha_sampleByte, Bool.not_not, Bool.and_self, and_self]

/-- Being below 64 is having no bit above bit 5. -/
theorem lt_64_iff (v : Word) : v < 64#32 ↔ ∀ n, 6 ≤ n → v.getLsbD n = false := by
  rw [BitVec.lt_def]
  constructor
  · intro h n hn
    exact Nat.testBit_lt_two_pow (Nat.lt_of_lt_of_le h (Nat.pow_le_pow_right Nat.two_pos hn))
  · intro h
    exact Nat.lt_pow_two_of_testBit (n := 6) v.toNat h

/-- R64 (c): the flags word is any value below 64 in which VALID is ALPHA and RSVOK. -/
theorem exists_flags_eq_iff (v : Word) :
    (∃ t : Word, flags t = v) ↔ v < 64#32 ∧ v.getLsbD 5 = (v.getLsbD 4 && v.getLsbD 2) := by
  rw [lt_64_iff]
  constructor
  · rintro ⟨t, rfl⟩
    obtain ⟨-, -, -, hrsvok, -, halpha, hvalid, hhigh⟩ := flagsWordLayout t
    exact ⟨hhigh, by rw [hvalid, halpha, hrsvok, valid]⟩
  · rintro ⟨hv, hv5⟩
    obtain ⟨t, hcrit, hpub, hrsvok, hsafe, halpha⟩ :=
      exists_type_of_flags (v.getLsbD 0) (v.getLsbD 1) (v.getLsbD 2) (v.getLsbD 3) (v.getLsbD 4)
    have hvalid : valid t = v.getLsbD 5 := by rw [valid, halpha, hrsvok, hv5]
    obtain ⟨-, h0, h1, h2, h3, h4, h5, hhigh⟩ := flagsWordLayout t
    refine ⟨t, BitVec.eq_of_getLsbD_eq fun n _ => ?_⟩
    by_cases hn : 6 ≤ n
    · rw [hhigh n hn, hv n hn]
    · interval_cases n
      exacts [h0.trans hcrit, h1.trans hpub, h2.trans hrsvok, h3.trans hsafe, h4.trans halpha, h5.trans hvalid]

/-! ## The command and the outputs that show the flags -/

/-- TYP.LDS answers code 0 exactly for four letters (R59). -/
theorem exec_typLds_code (w : Word) (s : State) :
    ∃ t r, exec (.typLds w) s = .next t ∧ t.rsp = some r ∧ (r.code = .ok ↔ alpha w = true) := by
  cases ha : alpha w with
  | true => exact ⟨_, _, exec_typLds_of_alpha ha s, rfl, by simp⟩
  | false => exact ⟨_, _, exec_typLds_of_not_alpha ha s, rfl, by simp⟩

end Sys2Proof.Machine

open Sys2Proof Sys2Proof.Machine

/-- Settles O40: each property reads one bit, so it depends on that bit alone; the other laws are the lemmas above. -/
theorem decoderLawsHold : Obligations.DecoderLawsHold := by
  refine ⟨fun t n _ => ⟨?_, ?_, ?_, ?_⟩, fun _ => exists_alpha_flip_ne, exists_flags_eq_iff,
    fun b hb => ⟨letter_bit5_iff hb, (isAlpha_xor_caseBit b).trans hb⟩,
    fun t _ ht hn => (alpha_flip_caseBit hn t).trans ht⟩
  · rw [crit_eq, crit_eq]; exact not_getLsbD_flip t n (by decide)
  · rw [pub_eq, pub_eq]; exact not_getLsbD_flip t n (by decide)
  · rw [rsvok_eq, rsvok_eq]; exact not_getLsbD_flip t n (by decide)
  · rw [safe_eq, safe_eq]; exact getLsbD_flip t n (by decide)

/-- Refutes O41: bit 5, the case of byte 3, is flipped in no type with an effect on ALPHA (`alpha_flip_caseBit`). -/
theorem not_alphaDependsOnEveryBit : ¬ Obligations.AlphaDependsOnEveryBit := by
  intro h
  obtain ⟨t, ht⟩ := h 5 (by decide)
  exact ht (alpha_flip_caseBit (by decide) t)

/-- Settles O42: the response's code is decided by ALPHA, which is bit 4 of the flags word. -/
theorem typLdsSucceedsIffTheAlphaFlag : Obligations.TypLdsSucceedsIffTheAlphaFlag := by
  intro w s
  obtain ⟨-, -, -, -, -, halpha, -⟩ := flagsWordLayout w
  rw [halpha]
  exact exec_typLds_code w s

/-- Settles O43: the outputs are the six flags, which the flags word holds in its bits 0 to 5. -/
theorem sidebandShowsTheFlags : Obligations.SidebandShowsTheFlags := by
  intro s
  obtain ⟨-, h0, h1, h2, h3, h4, h5, -⟩ := flagsWordLayout s.regs.type
  rw [State.sideband, ← h0, ← h1, ← h2, ← h3, ← h4, ← h5]
  rfl

end

section
/-! PROOFS. The laws of the checksum (`41_crc.md` R82): linearity makes the bit step injective, and injective steps carry a
difference in one byte to the end. -/

namespace Sys2Proof.Machine

/-! ## The bit step -/

/-- R82 (d): the shift brings in a zero, the polynomial has bit 31. -/
theorem getLsbD_crcBit_31 (c : Word) : (crcBit c).getLsbD 31 = c.getLsbD 0 := by
  have htop : (c >>> 1).getLsbD 31 = false := by
    rw [BitVec.getLsbD_ushiftRight]
    exact BitVec.getLsbD_of_ge c _ (by decide)
  rw [crcBit_eq_xor, BitVec.getLsbD_xor, htop, Bool.false_xor]
  cases c.getLsbD 0 <;> rfl

/-- Only zero goes to zero: bit 31 says that no polynomial entered, and the shift lost no bit. -/
theorem eq_zero_of_crcBit_eq_zero {c : Word} (h : crcBit c = 0#32) : c = 0#32 := by
  have hbit : c.getLsbD 0 = false := by rw [← getLsbD_crcBit_31, h, BitVec.getLsbD_zero]
  have hshift : c >>> 1 = 0#32 := by rw [← h, crcBit, hbit]; rfl
  apply BitVec.eq_of_getLsbD_eq
  rintro (_ | i) -
  · exact hbit
  · have hi := congrArg (BitVec.getLsbD · i) hshift
    rw [BitVec.getLsbD_ushiftRight, Nat.add_comm, BitVec.getLsbD_zero] at hi
    rw [hi, BitVec.getLsbD_zero]

theorem crcBit_injective : Function.Injective crcBit := by
  intro c d h
  have hzero : crcBit (c ^^^ d) = 0#32 := by rw [crcBit_xor, h, BitVec.xor_self]
  exact BitVec.xor_eq_zero_iff.1 (eq_zero_of_crcBit_eq_zero hzero)

/-- R82 (d): the words are finitely many. -/
theorem crcBit_bijective : Function.Bijective crcBit :=
  Finite.injective_iff_bijective.1 crcBit_injective

/-! ## The byte step -/

/-- Zero-extension keeps all bits of a byte (R11). -/
theorem zextByte_injective : Function.Injective zextByte :=
  Function.LeftInverse.injective (g := BitVec.setWidth 8) fun b => by simp [zextByte]

/-- R82 (d), the byte step in the accumulator: an xor with a fixed word undoes itself, the bit steps are bijective. -/
theorem crcByte_bijective (b : Byte) : Function.Bijective fun c : Word => crcByte c b := by
  have hxor : Function.Involutive fun c : Word => c ^^^ zextByte b := fun c => by
    dsimp only
    rw [BitVec.xor_assoc, BitVec.xor_self, BitVec.xor_zero]
  exact (crcBit_bijective.iterate 8).comp hxor.bijective

/-- R82 (d), the byte step in the byte. -/
theorem crcByte_injective (c : Word) : Function.Injective fun b : Byte => crcByte c b := by
  have hxor : Function.Injective fun b : Byte => c ^^^ zextByte b := fun b b' h =>
    zextByte_injective (BitVec.xor_right_inj c |>.1 h)
  exact (crcBit_injective.iterate 8).comp hxor

/-- R82 (c): a byte may be xored into the accumulator before it is fed. -/
theorem crcByte_eq_crcByte_zero (c : Word) (b : Byte) : crcByte c b = crcByte (c ^^^ zextByte b) 0x00#8 := by
  rw [crcByte_eq_iterate, crcByte_eq_iterate, show zextByte 0x00#8 = 0#32 from rfl, BitVec.xor_zero]

/-! ## Sequences of bytes -/

/-- A fixed sequence of bytes keeps different accumulators different. -/
theorem crcBytes_injective (bs : List Byte) : Function.Injective fun c : Word => crcBytes c bs := by
  induction bs with
  | nil => exact Function.injective_id
  | cons b bs ih => exact ih.comp (crcByte_bijective b).injective

theorem finalCrc_injective : Function.Injective finalCrc :=
  fun _ _ h => BitVec.xor_left_inj crcXorOut |>.1 h

/-- R82 (e): the accumulators are equal up to the byte that differs, different after it, and stay so. -/
theorem crc32_ne_of_byte_ne (pre post : List Byte) {b b' : Byte} (h : b ≠ b') :
    crc32 (pre ++ [b] ++ post) ≠ crc32 (pre ++ [b'] ++ post) := by
  intro heq
  have hcrc := finalCrc_injective heq
  simp only [crcBytes_append] at hcrc
  exact h (crcByte_injective _ (crcBytes_injective post hcrc))

end Sys2Proof.Machine

open Sys2Proof Sys2Proof.Machine

/-- Settles O46: the sequence is taken apart at the concatenation (`crcBytes_append`), the bit step is a sum of linear parts
(`crcBit_xor`). -/
theorem checksumIsIncrementalAndLinear : Obligations.ChecksumIsIncrementalAndLinear :=
  ⟨finalCrc_allOnes, crcBytes_append, crcBit_xor, crcByte_eq_crcByte_zero⟩

/-- Settles O47: the bit step is linear and only zero goes to zero; the byte step is eight of them after an xor. -/
theorem checksumStepsAreBijections : Obligations.ChecksumStepsAreBijections :=
  ⟨getLsbD_crcBit_31, crcBit_bijective, crcByte_bijective, crcByte_injective⟩

/-- Settles O48: injective steps keep what the two sequences' one difference made different. -/
theorem oneByteDifferenceChangesTheChecksum : Obligations.OneByteDifferenceChangesTheChecksum :=
  fun pre post _ _ h => crc32_ne_of_byte_ne pre post h

end

section
/-! PROOFS. Building and parsing a chunk record (`41_crc.md` R83): the sequences are put together from runs of their parts. -/

namespace Sys2Proof.Machine

/-! ## Runs of sequences, by the registers they find and leave -/

/-- From the registers `r`, whatever is at the ports, the commands `is` leave `r'` and give the responses `rs`. -/
def Runs (is : List Instr) (r r' : Regs) (rs : List Response) : Prop :=
  ∀ s : State, s.regs = r → ∃ t, runInstrs is s = .next t ∧ t.regs = r' ∧ t.responses = s.responses ++ rs

/-- A run of two sequences is a run of the second from where the first ends. -/
theorem runInstrs_append {is : List Instr} {s t : State} (h : runInstrs is s = .next t) (js : List Instr) :
    runInstrs (is ++ js) s = runInstrs js t := by
  induction is generalizing s with
  | nil => cases h; rfl
  | cons i is ih =>
    obtain ⟨u, hu, -⟩ := exec_withInput i s.takeResponse
    rw [List.cons_append, runInstrs_cons hu, ih ((runInstrs_cons hu is).symm.trans h)]

theorem Runs.append {is js : List Instr} {r r' r'' : Regs} {rs rs' : List Response} (h : Runs is r r' rs)
    (h' : Runs js r' r'' rs') : Runs (is ++ js) r r'' (rs ++ rs') := by
  intro s hs
  obtain ⟨t, ht, hregs, hresponses⟩ := h s hs
  obtain ⟨u, hu, hregs', hresponses'⟩ := h' t hregs
  exact ⟨u, (runInstrs_append ht js).trans hu, hregs', by rw [hresponses', hresponses, List.append_assoc]⟩

/-- A single command: the response before it is taken, and it runs. -/
theorem runInstrs_singleton {i : Instr} {s t : State} (h : exec i s.takeResponse = .next t) :
    runInstrs [i] s = .next t :=
  runInstrs_cons h []

/-- One command that only writes registers and responds. -/
theorem runs_single {i : Instr} {r r' : Regs} {c : RspCode} {d : Word}
    (h : ∀ s : State, s.regs = r → exec i s = .next (State.respond { s with regs := r' } c d)) :
    Runs [i] r r' [⟨c, d⟩] :=
  fun s hs => ⟨_, runInstrs_singleton (h s.takeResponse hs), rfl, rfl⟩

/-! ## The parts -/

theorem runs_crcInit (r : Regs) : Runs [.crcInit] r { r with crc := crcInitValue, len := 0#32 } [⟨.ok, 0#32⟩] :=
  runs_single fun _ hs => by subst hs; rfl

theorem runs_crcType (r : Regs) :
    Runs [.crcType] r { r with crc := crcBytes r.crc (wireBytes r.type) } [⟨.ok, 0#32⟩] :=
  runs_single fun _ hs => by subst hs; rfl

theorem runs_crcRd (r : Regs) : Runs [.crcRd] r r [⟨.ok, finalCrc r.crc⟩] :=
  runs_single fun _ hs => by subst hs; rfl

theorem runs_lenRd (r : Regs) : Runs [.lenRd] r r [⟨.ok, r.len⟩] :=
  runs_single fun _ hs => by subst hs; rfl

theorem runs_crcRdb (k : ByteIndex) (r : Regs) : Runs [.crcRdb k] r r [⟨.ok, zextByte (byteOf (finalCrc r.crc) k)⟩] :=
  runs_single fun _ hs => by subst hs; rfl

/-- The load of R83 (a), in either form. -/
theorem runs_load {load : Instr} {t : Word} (hload : load = .typLd t ∨ (load = .typLds t ∧ alpha t = true)) (r : Regs) :
    Runs [load] r { r with type := t } [⟨.ok, 0#32⟩] := by
  refine runs_single fun s hs => ?_
  subst hs
  rcases hload with rfl | ⟨rfl, ha⟩
  · exact exec_typLd t s
  · exact exec_typLds_of_alpha ha s

theorem runs_pushType (t0 t1 t2 t3 : Byte) (r : Regs) :
    Runs (pushType t0 t1 t2 t3) r { r with type := wordOf t0 t1 t2 t3 } (List.replicate 4 ⟨.ok, 0#32⟩) :=
  fun s hs => hs ▸ runInstrs_pushType s t0 t1 t2 t3

theorem runs_pushExpect (e0 e1 e2 e3 : Byte) (r : Regs) :
    Runs (pushExpect e0 e1 e2 e3) r { r with expect := wordOf e0 e1 e2 e3 } (List.replicate 4 ⟨.ok, 0#32⟩) :=
  fun s hs => hs ▸ runInstrs_pushExpect s e0 e1 e2 e3

theorem runs_feedBytes (data : List Byte) (r : Regs) :
    Runs (feedBytes data) r { r with crc := crcBytes r.crc data, len := r.len + BitVec.ofNat 32 data.length }
      (List.replicate data.length ⟨.ok, 0#32⟩) := by
  intro s hs
  rw [← foldl_feedByte, ← hs]
  exact runInstrs_map_bytes exec_crcByte data s

/-- R27: after CRC.INIT, CRC.TYPE and the data bytes feed the bytes a record's CRC covers, and only the data is counted. -/
theorem runs_feedChunk (data : List Byte) {r : Regs} (hcrc : r.crc = crcInitValue) (hlen : r.len = 0#32) :
    Runs ([.crcType] ++ feedBytes data) r
      { r with crc := crcBytes crcInitValue (coveredBytes r.type data), len := BitVec.ofNat 32 data.length }
      (List.replicate (1 + data.length) ⟨.ok, 0#32⟩) := by
  have h := (runs_crcType r).append (runs_feedBytes data _)
  rw [hcrc, hlen, BitVec.zero_add, ← crcBytes_append] at h
  rw [List.replicate_add]
  exact h

/-- R83 (a), up to the reads. -/
theorem runs_buildSequence {load : Instr} {t : Word} (hload : load = .typLd t ∨ (load = .typLds t ∧ alpha t = true))
    (data : List Byte) (r : Regs) :
    Runs (buildSequence load data) r
      { r with type := t, crc := crcBytes crcInitValue (coveredBytes t data), len := BitVec.ofNat 32 data.length }
      (List.replicate (3 + data.length) ⟨.ok, 0#32⟩) := by
  have h := ((runs_load hload r).append (runs_crcInit _)).append (runs_feedChunk data rfl rfl)
  rw [show 3 + data.length = 2 + (1 + data.length) by omega, List.replicate_add]
  exact h

/-- R83 (a), the serialised CRC: its four bytes in wire order. -/
theorem runs_readCrcBytes (r : Regs) :
    Runs readCrcBytes r r ((wireBytes (finalCrc r.crc)).map fun e => ⟨.ok, zextByte e⟩) :=
  (((runs_crcRdb 0#2 r).append (runs_crcRdb 1#2 r)).append (runs_crcRdb 2#2 r)).append (runs_crcRdb 3#2 r)

/-- R83 (b): the parse sequence is CRC.CHK from a state that holds the covered bytes' accumulator and the stored CRC. -/
theorem runInstrs_parseSequence (s : State) (t0 t1 t2 t3 e0 e1 e2 e3 : Byte) (data : List Byte) : ∃ u : State,
    runInstrs (parseSequence t0 t1 t2 t3 data e0 e1 e2 e3) s = runInstrs [.crcChk] u ∧
    u.regs = { s.regs with
      type := wordOf t0 t1 t2 t3
      crc := crcBytes crcInitValue ([t0, t1, t2, t3] ++ data)
      expect := wordOf e0 e1 e2 e3
      len := BitVec.ofNat 32 data.length } := by
  have hloads := (((runs_crcInit s.regs).append (runs_pushType t0 t1 t2 t3 _)).append (runs_feedChunk data rfl rfl)).append
    (runs_pushExpect e0 e1 e2 e3 _)
  rw [coveredBytes, wireBytes_wordOf] at hloads
  obtain ⟨u, hu, hregs, -⟩ := hloads s rfl
  exact ⟨u, runInstrs_append hu [.crcChk], hregs⟩

end Sys2Proof.Machine

open Sys2Proof Sys2Proof.Machine

/-- Settles O50: the build sequence, the two reads and the four CRC.RDB, one run after another. -/
theorem buildSequenceComputesTheChecksum : Obligations.BuildSequenceComputesTheChecksum := by
  intro s t load data hload
  have hreads := (runs_buildSequence hload data s.regs).append ((runs_crcRd _).append (runs_lenRd _))
  obtain ⟨u, hrun, hregs, hresponses⟩ := hreads.append (runs_readCrcBytes _) s rfl
  refine ⟨u, hrun, ?responses, by rw [hregs], by rw [hregs], by rw [hregs]⟩
  case responses =>
    rw [hresponses]
    simp only [List.append_assoc]
    rfl

/-- Settles O51: CRC.CHK compares the finalised accumulator of the bytes fed with the four bytes pushed. -/
theorem parseSequenceChecksTheRecord : Obligations.ParseSequenceChecksTheRecord := by
  intro s t0 t1 t2 t3 e0 e1 e2 e3 data
  obtain ⟨u, hrun, hregs⟩ := runInstrs_parseSequence s t0 t1 t2 t3 e0 e1 e2 e3 data
  have htype : u.regs.type = wordOf t0 t1 t2 t3 := by rw [hregs]
  have hcrc : finalCrc u.regs.crc = crc32 ([t0, t1, t2, t3] ++ data) := by rw [hregs]; rfl
  have hexpect : u.regs.expect = wordOf e0 e1 e2 e3 := by rw [hregs]
  have hlen : u.regs.len = BitVec.ofNat 32 data.length := by rw [hregs]
  have hstatus : u.regs.status = s.regs.status := by rw [hregs]
  rw [hrun, ← hcrc, ← hexpect, ← hstatus]
  by_cases heq : finalCrc u.regs.crc = u.regs.expect
  · exact ⟨_, runInstrs_singleton (exec_crcChk_of_eq heq), htype, rfl, hlen, fun _ => ⟨rfl, rfl⟩, absurd heq⟩
  · exact ⟨_, runInstrs_singleton (exec_crcChk_of_ne heq), htype, rfl, hlen, (absurd · heq), fun _ => ⟨rfl, rfl⟩⟩

namespace Sys2Proof.Machine

/-- R83 (b) with the four bytes of a stored CRC (R28): CRC.CHK compares with that CRC. -/
theorem parseSequence_storedCrc (s : State) (t0 t1 t2 t3 : Byte) (data : List Byte) (crc : Word) : ∃ u : State,
    runInstrs (parseSequence t0 t1 t2 t3 data (byteOf crc 0#2) (byteOf crc 1#2) (byteOf crc 2#2) (byteOf crc 3#2)) s
      = .next u ∧
    (crc32 ([t0, t1, t2, t3] ++ data) = crc →
      u.rsp = some ⟨.ok, crc32 ([t0, t1, t2, t3] ++ data)⟩ ∧ u.regs.status = s.regs.status) ∧
    (crc32 ([t0, t1, t2, t3] ++ data) ≠ crc →
      u.rsp = some ⟨.crcMismatchError, crc32 ([t0, t1, t2, t3] ++ data)⟩ ∧
        u.regs.status = { s.regs.status with ecrc := true }) := by
  obtain ⟨u, hrun, -, -, -, hpass, hfail⟩ := parseSequenceChecksTheRecord s t0 t1 t2 t3 (byteOf crc 0#2) (byteOf crc 1#2)
    (byteOf crc 2#2) (byteOf crc 3#2) data
  rw [wordOf_byteOf] at hpass hfail
  exact ⟨u, hrun, hpass, hfail⟩

end Sys2Proof.Machine

/-- Settles O52: the four bytes read are those of the checksum, which is then what CRC.CHK compares with. -/
theorem serialisedRecordPassesTheParse : Obligations.SerialisedRecordPassesTheParse := by
  intro s u t0 t1 t2 t3 load data hload
  obtain ⟨v, hbuild, -, hresponses⟩ := (runs_buildSequence hload data s.regs).append (runs_readCrcBytes _) s rfl
  obtain ⟨w, hparse, hpass, -⟩ := parseSequence_storedCrc u t0 t1 t2 t3 data (crc32 (coveredBytes (wordOf t0 t1 t2 t3) data))
  obtain ⟨hrsp, hstatus⟩ := hpass (by rw [coveredBytes, wireBytes_wordOf])
  exact ⟨v, w, _, _, _, _, _, hbuild, hresponses.trans (List.append_assoc ..).symm, rfl, hparse, hrsp, hstatus⟩

/-- Settles O53: the changed bytes have another checksum (`crc32_ne_of_byte_ne`) than the one stored. -/
theorem corruptedByteFailsTheParse : Obligations.CorruptedByteFailsTheParse := by
  intro s t0 t1 t2 t3 data good pre post b b' hgood hchanged hne
  obtain ⟨u, hrun, -, hfail⟩ := parseSequence_storedCrc s t0 t1 t2 t3 data (crc32 good)
  have hdiffers : crc32 ([t0, t1, t2, t3] ++ data) ≠ crc32 good := by
    rw [hgood, hchanged]
    exact crc32_ne_of_byte_ne pre post hne.symm
  obtain ⟨hrsp, hstatus⟩ := hfail hdiffers
  exact ⟨u, hrun, hrsp, by rw [hstatus]⟩

end

section
/-! PROOFS. The assembler on statements (`30_encoding.md` R48, R49): each reader of operands accepts exactly those in the range
of its format, and so do the statements made of them. -/

namespace Sys2Proof.Machine

/-! ## Operands -/

/-- A reader that accepts on a condition. -/
theorem isSome_ite_some {α : Type} (p : Prop) [Decidable p] (a : α) :
    (if p then some a else none).isSome = decide p := by
  rw [Bool.eq_iff_iff, Option.isSome_ite, decide_eq_true_eq]

theorem asmByte_isSome (o : AsmOperand) : (asmByte o).isSome = o.isByte := by
  cases o with
  | num n => exact isSome_ite_some ..
  | chr c => exact (isSome_ite_some ..).trans (Bool.decide_eq_true ..)
  | str cs => rfl

theorem asmIndex_isSome (o : AsmOperand) : (asmIndex o).isSome = o.isIndex := by
  cases o with
  | num n => exact isSome_ite_some ..
  | chr c => rfl
  | str cs => rfl

/-- A literal of exactly four printable characters (R48). -/
theorem asmWordOfChars_isSome (cs : List Char) :
    (asmWordOfChars cs).isSome = (decide (cs.length = 4) && cs.all printable) := by
  match cs with
  | [] | [_] | [_, _] | [_, _, _] => rfl
  | [c0, c1, c2, c3] => simp [asmWordOfChars, isSome_ite_some, Bool.and_assoc]
  | _ :: _ :: _ :: _ :: _ :: _ => simp [asmWordOfChars]

theorem asmWord_isSome (o : AsmOperand) : (asmWord o).isSome = o.isWord := by
  cases o with
  | num n => exact isSome_ite_some ..
  | chr c => rfl
  | str cs => exact asmWordOfChars_isSome cs

/-- The list is read when each of its operands is (R49). -/
theorem asmBytes_isSome (os : List AsmOperand) : (asmBytes os).isSome = os.all AsmOperand.isByte := by
  induction os with
  | nil => rfl
  | cons o os ih =>
    rw [List.all_cons, ← asmByte_isSome, ← ih, asmBytes]
    cases asmByte o <;> cases asmBytes os <;> rfl

/-! ## Command lines -/

/-- A line with an operand is read when its operand is (R48). -/
theorem asmOne_isSome {α : Type} {read : AsmOperand → Option α} {ok : AsmOperand → Bool}
    (hread : ∀ o, (read o).isSome = ok o) (f : α → Instr) (o : AsmOperand) : (asmOne read f (some o)).isSome = ok o :=
  Option.isSome_map.trans (hread o)

/-- R48: with no operand the lines of format N are read, with one those of the other formats, by their readers. -/
theorem asmCommand_isSome (m : Mnemonic) (o : Option AsmOperand) :
    (asmCommand m o).isSome = (AsmStmt.command m o).wellFormed := by
  cases o with
  | none => cases m <;> rfl
  | some o =>
    cases m
    case typLd | typLds | typEq | expLd => exact asmOne_isSome asmWord_isSome _ o
    case typPush | crcByte | expPush => exact asmOne_isSome asmByte_isSome _ o
    case crcRdb => exact asmOne_isSome asmIndex_isSome _ o
    all_goals rfl

theorem asmNone_mnemonic {i j : Instr} {o : Option AsmOperand} (h : asmNone i o = some j) :
    j.mnemonic = i.mnemonic := by
  cases o <;> cases h
  rfl

theorem asmOne_mnemonic {α : Type} {read : AsmOperand → Option α} {f : α → Instr} {m : Mnemonic}
    {o : Option AsmOperand} {j : Instr} (h : asmOne read f o = some j) (hf : ∀ x, (f x).mnemonic = m) :
    j.mnemonic = m := by
  cases o with
  | none => cases h
  | some o =>
    obtain ⟨x, -, rfl⟩ := Option.map_eq_some_iff.1 h
    exact hf x

/-- A command line gives the command of its mnemonic, whatever its operand (R48). -/
theorem asmCommand_mnemonic {m : Mnemonic} {o : Option AsmOperand} {i : Instr} (h : asmCommand m o = some i) :
    i.mnemonic = m := by
  cases m
  case typLd | typLds | typEq | expLd | typPush | crcByte | expPush | crcRdb => exact asmOne_mnemonic h fun _ => rfl
  all_goals exact asmNone_mnemonic h

/-! ## Statements -/

theorem assemble_isSome (st : AsmStmt) : (assemble st).isSome = st.wellFormed := by
  cases st with
  | command m o => exact Option.isSome_map.trans (asmCommand_isSome m o)
  | crcBytes bs =>
    cases bs with
    | nil => rfl
    | cons b bs => exact Option.isSome_map.trans (asmBytes_isSome (b :: bs))
  | crcStr cs =>
    exact (isSome_ite_some ..).trans (Bool.decide_eq_true (b := cs.all asmStrChar))
  | typBytes t0 t1 t2 t3 =>
    rw [assemble, Option.isSome_map, asmBytes_isSome]
    simp [AsmStmt.wellFormed, Bool.and_assoc]
  | expBytes e0 e1 e2 e3 =>
    rw [assemble, Option.isSome_map, asmBytes_isSome]
    simp [AsmStmt.wellFormed, Bool.and_assoc]

end Sys2Proof.Machine

open Sys2Proof Sys2Proof.Machine

/-- Settles O18: the readers accept the operands in range (`assemble_isSome`), every command is decoded from its word
(`decode_encode`), and a line's command has its mnemonic. -/
theorem assemblerAcceptsExactlyTheOperandsInRange : Obligations.AssemblerAcceptsExactlyTheOperandsInRange := by
  refine ⟨assemble_isSome, fun _ _ _ i _ => decode_encode i, ?mnemonic⟩
  case mnemonic =>
    intro m o i h
    obtain ⟨j, hj, hij⟩ := Option.map_eq_some_iff.1 h
    obtain rfl : j = i := List.singleton_inj.1 hij
    exact asmCommand_mnemonic hj

end
